-- ==== Sys2Proof/Word.lean ====
section
/-! DEFINITION. The plain types the model counts and computes in: what the manual treats as bits is a
bit vector of the manual's width, what it treats as a number out of a fixed set is a `Fin`, and what it
counts is a `Nat` (the bounds of such counts are invariants, see Safety.lean). -/

namespace Sys2Proof

/-- A byte of a management frame (R165). -/
abbrev Byte := BitVec 8

/-- The value word of a management frame (R165). -/
abbrev Word32 := BitVec 32

/-- A timebase value: a 32-bit count of ticks that returns to 0 (R33). -/
abbrev Time := BitVec 32

/-- A request address (R176). -/
abbrev Address := BitVec 40

/-- The 16 bytes of one data beat (R176). -/
abbrev Data := BitVec 128

/-- One of the sixteen traffic classes (01, section 1.1). -/
abbrev ClassId := Fin 16

/-- The source of a request, 0 to 63 (R1). -/
abbrev Initiator := Fin 64

/-- An in-flight entry's index, which is the downstream tag of its request (R106). -/
abbrev EntryIndex := Fin 64

end Sys2Proof
end

