-- ==== Sys2Proof/Syntax.lean ====
section
/-! DEFINITION. The commands of the block: one constructor of `Instr` for each row of
spec/opcode_table.json, with the operands its rule gives it. -/

namespace Sys2Proof

/-- A level of a line or pin. -/
inductive Level where
  | low
  | high
  deriving DecidableEq, Repr

/-- One of the two filtered lines (R57). -/
inductive Line where
  | frame
  | gate
  deriving DecidableEq, Repr

/-- The kind of a request (R176: 0 READ, 1 WRITE). -/
inductive Kind where
  | read
  | write
  deriving DecidableEq, Repr

/-- A request header as it is offered upstream (R176). `len` is the number of beats less one. -/
structure Request where
  kind : Kind
  address : Address
  len : BitVec 4
  initiator : Initiator
  tag : BitVec 8
  urgency : BitVec 2
  deriving DecidableEq, Repr

/-- A beat of a response as it is offered downstream (R176). -/
structure DownBeat where
  tag : EntryIndex
  status : BitVec 2
  data : Data
  last : Bool
  deriving DecidableEq, Repr

/-- The two settings of a line filter that software writes (R62). -/
inductive FilterSetting where
  | sampleInterval
  | agreementCount
  deriving DecidableEq, Repr

/-- What one FILTER_EDGE takes: a sample while the raw line has the level `sample`, or no sample, and then, in this order,
the copies that the classes of `now` owe (R59 to R61; notes/assumptions/25.md). -/
structure EdgeTaking where
  sample : Option Level
  now : List ClassId
  deriving DecidableEq, Repr

/-- The commands, in the order of spec/opcode_table.json. A management command carries the object, field
and value of its frame, also where its rule says that it does not use them. -/
inductive Instr where
  /-- TICK: the raw levels of FRAME and GATE at the tick, and the classes that take this tick later, at
  their own `periodBoundary` (R33: each class takes its tick as a happening of its own). -/
  | tick (frame gate : Level) (later : List ClassId)
  /-- PERIOD_BOUNDARY: the class takes the tick that it still owes. -/
  | periodBoundary (n : ClassId)
  /-- FILTER_EDGE: the filter of the line takes the given sample, and the given classes take their copies of the line's
  last edge (R59 to R61). -/
  | filterEdge (line : Line) (taking : EdgeTaking)
  /-- ADMISSION_DECISION: the interconnect offers the header (or nothing new), and the presented
  request is decided. -/
  | admissionDecision (offered : Option Request)
  /-- GRANT_THROUGH_SLOT: the grant of the through slot in a choice that stands open. -/
  | grantThroughSlot
  /-- GRANT_HEAD: the grant of a head in a choice that stands open. -/
  | grantHead
  /-- DOWNSTREAM_REQUEST_TAKEN: the memory controller takes the beat that is offered. -/
  | downstreamRequestTaken
  /-- UPSTREAM_RESPONSE_CHOICE: the given first beat comes to be presented downstream, or none, and the arbiter chooses
  if it is free. -/
  | upstreamResponseChoice (presented : Option DownBeat)
  /-- LIVE_RESPONSE_BEAT: the next beat of the live response. -/
  | liveResponseBeat (beat : DownBeat)
  /-- DEADLINE: the entry takes the tick that is its deadline. -/
  | deadline (k : EntryIndex)
  /-- LATE_RESPONSE: a beat of a late response. -/
  | lateResponse (beat : DownBeat)
  /-- STRAY_RESPONSE: a beat of a stray response. -/
  | strayResponse (beat : DownBeat)
  /-- GENERATED_RESPONSE_BEAT. -/
  | generatedResponseBeat
  /-- QUIESCED. -/
  | quiesced
  /-- FRAME_CLOSE: MCS_N rises after the given bits, first bit first. -/
  | frameClose (bits : List Bool)
  /-- NOP (code 00h). -/
  | nop (object field : Byte) (value : Word32)
  /-- READ_FIELD (code 01h). -/
  | readField (object field : Byte) (value : Word32)
  /-- WRITE_FIELD (code 02h). -/
  | writeField (object field : Byte) (value : Word32)
  /-- STAGING_WRITE: WRITE-FIELD of staging field 00h to 0Dh of a class. -/
  | stagingWrite (n : ClassId) (field : Fin 14) (value : Word32)
  /-- CLASS_MAP_WRITE: WRITE-FIELD on object 20h. -/
  | classMapWrite (field : Byte) (value : Word32)
  /-- TICK_DIV_WRITE: WRITE-FIELD on object 30h, field 00h. -/
  | tickDivWrite (value : Word32)
  /-- FILTER_SETTINGS_WRITE: WRITE-FIELD on object 31h or 32h, field 00h or 01h. -/
  | filterSettingsWrite (line : Line) (setting : FilterSetting) (value : Word32)
  /-- HISTOGRAM_EDGE_WRITE: WRITE-FIELD on object 33h. -/
  | histogramEdgeWrite (field : Byte) (value : Word32)
  /-- LOST_COUNT_WRITE: WRITE-FIELD on object 35h, field 11h. -/
  | lostCountWrite (value : Word32)
  /-- ALERT_ENABLE_WRITE: WRITE-FIELD on object 36h, field 00h to 0Ah. -/
  | alertEnableWrite (kind : Fin 11) (value : Word32)
  /-- COMMIT (code 10h). -/
  | commit (object field : Byte) (value : Word32)
  /-- DISCARD_PENDING (code 11h). -/
  | discardPending (object field : Byte) (value : Word32)
  /-- SET_REPEAT (code 14h). -/
  | setRepeat (object field : Byte) (value : Word32)
  /-- START (code 12h). -/
  | start (object field : Byte) (value : Word32)
  /-- STOP (code 13h). -/
  | stop (object field : Byte) (value : Word32)
  /-- ABANDON (code 30h). -/
  | abandon (object field : Byte) (value : Word32)
  /-- SNAPSHOT (code 20h). -/
  | snapshot (object field : Byte) (value : Word32)
  /-- POP_CAPTURE (code 21h). -/
  | popCapture (object field : Byte) (value : Word32)
  /-- READ_EVENTS (code 22h). -/
  | readEvents (object field : Byte) (value : Word32)
  /-- QUIESCE (code 31h). -/
  | quiesce (object field : Byte) (value : Word32)
  /-- RESUME (code 32h). -/
  | resume (object field : Byte) (value : Word32)
  /-- RESET_REGULATOR (code 3Fh). -/
  | resetRegulator (object field : Byte) (value : Word32)
  /-- PIN_RESET: RESET_N falls. -/
  | pinReset
  /-- LAST_BEAT_TAKEN_UPSTREAM: the upstream partner takes the held beat of a live response. -/
  | lastBeatTakenUpstream
  /-- UPSTREAM_WRITE_DATA_BEAT. -/
  | upstreamWriteDataBeat (data : Data)
  /-- RESET_N_RELEASE: RESET_N rises, with the raw levels of FRAME and GATE and whether MCS_N is low. -/
  | resetNRelease (frame gate : Level) (mcsLow : Bool)
  /-- FRAME_OPEN. -/
  | frameOpen
  deriving DecidableEq, Repr

end Sys2Proof
end

