-- ==== Sys2Proof/Decode.lean ====
section
/-! DEFINITION. The command that a word of the opcode table spells. The table gives the bits of no row
(spec/98_reader.md: n_rows_with_fixed is 0), so no word spells a command (notes/assumptions/20.md). -/

namespace Sys2Proof

/-- The command that the low `nbits` bits of `w` spell: none, for the table gives no row any bits. -/
def decodeTableWord (_nbits _w : Nat) : Option Instr := none

end Sys2Proof
end

