-- ==== Sys2Proof/Config.lean ====
section
/-! DEFINITION. The numbers the spec fixes for the part. The spec leaves no value of a command open, so no
opaque constant stands here. -/

namespace Sys2Proof.Config

/-- Hold entries of the pool (R87). -/
def holdEntries : Nat := 48

/-- The outstanding ceiling (R81). -/
def outstandingCeiling : Nat := 64

/-- Records of a full capture log (R140). -/
def logRecords : Nat := 32

/-- The largest value of a 32-bit saturating count (R130). -/
def countMax : Nat := 4294967295

/-- The largest interval in ticks (R129). -/
def intervalMax : Nat := 16777215

/-- The largest value of the 48-bit wait sum (R130). -/
def waitSumMax : Nat := 281474976710655

/-- The largest value of the lost count (R140). -/
def lostMax : Nat := 65535

/-- The part code (R171). -/
def partCode : Nat := 0x416

/-- The revision (R171). -/
def revision : Nat := 1

end Sys2Proof.Config
end

