-- ==== Sys2Proof/Machine/State.lean ====
section
/-! DEFINITION. The state of the device, as plain data: every piece of state the spec gives its thirteen
blocks and its ports, and the queue of waiting commands. Then the state after pin reset and the reasons a
step can stop. -/

namespace Sys2Proof.Machine

/-! ### Contracts (R14) -/

/-- The period mode (R14). -/
inductive Mode where
  | timed
  | synced
  | counted
  | gated
  deriving DecidableEq, Repr

/-- The over-budget action (R14). -/
inductive OverBudget where
  | hold
  | mark
  | reject
  deriving DecidableEq, Repr

/-- The overflow action (R14). -/
inductive Overflow where
  | stall
  | refuse
  deriving DecidableEq, Repr

/-- The line polarity, one field with two values (R15): the first is RISING or HIGH, the second FALLING
or LOW. -/
inductive Polarity where
  | risingHigh
  | fallingLow
  deriving DecidableEq, Repr

/-- The sync end (R14). -/
inductive SyncEnd where
  | length
  | edgeOrLength
  deriving DecidableEq, Repr

/-- The contract record (R14). -/
structure Contract where
  mode : Mode
  length : Nat
  budget : Nat
  carryCap : Nat
  outLimit : Nat
  holdLimit : Nat
  overBudget : OverBudget
  overflow : Overflow
  markedUrgency : Nat
  responseLimit : Nat
  captureThreshold : Nat
  polarity : Polarity
  syncEnd : SyncEnd
  reference : ClassId
  deriving DecidableEq, Repr

/-- The default contract (R17). -/
def defaultContract : Contract where
  mode := .timed
  length := 1000
  budget := 65535
  carryCap := 0
  outLimit := 64
  holdLimit := 0
  overBudget := .hold
  overflow := .stall
  markedUrgency := 0
  responseLimit := 0
  captureThreshold := 0
  polarity := .risingHigh
  syncEnd := .length
  reference := 0

/-! ### Requests inside the device -/

/-- An accepted request with what its acceptance recorded (R68): a request of the through slot (R78) or a
hold entry (R87). `data` holds the write data beats taken so far (R177). -/
structure Accepted where
  request : Request
  cls : Option ClassId
  charge : Nat
  arrival : Time
  marked : Bool
  urgency : BitVec 2
  data : List Data
  deriving DecidableEq, Repr

/-- The content of the refused slot: what R73 keeps of the request, and what its acceptance recorded (R68, R69) but for
the class, which the refused slot does not keep (R3; notes/assumptions/29.md). -/
structure Refused where
  kind : Kind
  len : BitVec 4
  initiator : Initiator
  tag : BitVec 8
  charge : Nat
  arrival : Time
  marked : Bool
  urgency : BitVec 2
  deriving DecidableEq, Repr

/-- Where an accepted request whose write data is still arriving stands (R177). -/
inductive Place where
  | through
  | held (n : ClassId)
  | refusedSlot
  | forwarded
  deriving DecidableEq, Repr

/-- The upstream request channel: free; a presented header, with the last-found class when the overflow
action STALL has left it presented (R76, R77); or a WRITE whose data beats are still to be taken
(R177). -/
inductive UpChannel where
  | free
  | presented (r : Request) (stalledAt : Option ClassId)
  | taking (place : Place) (beatsLeft : Nat)
  deriving DecidableEq, Repr

/-- The header of a forward (R108, R176): the tag is the downstream tag, and the upstream tag is not sent. -/
structure DownHeader where
  kind : Kind
  address : Address
  len : BitVec 4
  initiator : Initiator
  tag : EntryIndex
  urgency : BitVec 2
  deriving DecidableEq, Repr

/-- The forward on the downstream request channel (R178). `data` holds the data beats that have reached the channel so
far, and `sent` counts the beats that the memory controller has taken, the header first. -/
structure Forward where
  header : DownHeader
  data : List Data
  sent : Nat
  deriving DecidableEq, Repr

/-! ### The in-flight table (R106) -/

/-- The state of an entry that is not FREE. -/
inductive Phase where
  | pending
  | streaming
  | abandoned
  deriving DecidableEq, Repr

/-- The record of an entry that is not FREE (R106). -/
structure Flight where
  phase : Phase
  cls : Option ClassId
  kind : Kind
  address : Address
  len : BitVec 4
  initiator : Initiator
  tag : BitVec 8
  marked : Bool
  arrival : Time
  forwardTime : Time
  firstBeat : Option Time
  deadline : Option Time
  owed : Bool
  lateConsumed : Bool
  deriving DecidableEq, Repr

/-- A response that is being discarded on the downstream response channel (R117, R118). -/
inductive Discard where
  | late (k : EntryIndex)
  | stray
  deriving DecidableEq, Repr

/-! ### The upstream response arbiter (R120) -/

/-- The status of an upstream beat (R176). -/
inductive RespStatus where
  | okay
  | dataError
  | decodeError
  | refused
  | timeout
  deriving DecidableEq, Repr

/-- A beat offered on the upstream response channel (R176). -/
structure UpBeat where
  tag : BitVec 8
  status : RespStatus
  data : Data
  last : Bool
  deriving DecidableEq, Repr

/-- The source of a generated response (R121). -/
inductive GenSource where
  | refusedSlot
  | owedTimeout (k : EntryIndex)
  deriving DecidableEq, Repr

/-- The arbiter: free, sending a generated response with `beatsLeft` beats still to be taken upstream, or passing a live
response of entry `k` under the upstream tag `tag`. `held` is the beat held for the upstream partner, absent when that
beat has been taken and the next one has not been offered downstream (R110, R180). `ended` says that the response's
last beat has been taken downstream; `status` is the completion status so far (R112). -/
inductive RespChannel where
  | free
  | generated (source : GenSource) (tag : BitVec 8) (beatsLeft : Nat)
  | live (k : EntryIndex) (tag : BitVec 8) (held : Option UpBeat) (status : RespStatus) (ended : Bool)
  deriving DecidableEq, Repr

/-! ### Measurement (R130, R137, R139) -/

/-- The live statistics record of a class (R130). -/
structure Stats where
  completions : Nat
  errorCompletions : Nat
  timeouts : Nat
  lateResponses : Nat
  unitsCharged : Nat
  unitsMarked : Nat
  requestsHeld : Nat
  requestsRefused : Nat
  periodsCompleted : Nat
  overBudgetPeriods : Nat
  supersededCommits : Nat
  waitMin : Nat
  waitMax : Nat
  waitSum : Nat
  bins : Vector Nat 8
  holdMax : Nat
  streamMax : Nat
  deriving DecidableEq, Repr

/-- A clear record (R130). -/
def clearStats : Stats where
  completions := 0
  errorCompletions := 0
  timeouts := 0
  lateResponses := 0
  unitsCharged := 0
  unitsMarked := 0
  requestsHeld := 0
  requestsRefused := 0
  periodsCompleted := 0
  overBudgetPeriods := 0
  supersededCommits := 0
  waitMin := Config.intervalMax
  waitMax := 0
  waitSum := 0
  bins := Vector.replicate 8 0
  holdMax := 0
  streamMax := 0

/-- The content of the snapshot view (R137). -/
structure Snapshot where
  cls : ClassId
  time : Time
  stats : Stats
  deriving DecidableEq, Repr

/-- A capture record (R139). `stream` is absent for a WRITE and for TIMEOUT. -/
structure Capture where
  cls : ClassId
  initiator : Initiator
  tag : BitVec 8
  kind : Kind
  address : Address
  len : BitVec 4
  hold : Nat
  wait : Nat
  stream : Option Nat
  status : RespStatus
  marked : Bool
  completion : Time
  deriving DecidableEq, Repr

/-! ### Events (R145) -/

/-- The seven per-class flags. -/
structure ClassFlags where
  overrun : Bool
  holdFull : Bool
  timeout : Bool
  late : Bool
  capture : Bool
  expired : Bool
  shortPeriod : Bool
  deriving DecidableEq, Repr

/-- No per-class flag set. -/
def noClassFlags : ClassFlags := ⟨false, false, false, false, false, false, false⟩

/-- The four global flags. -/
structure GlobalFlags where
  stray : Bool
  tableFull : Bool
  captureLost : Bool
  quiesced : Bool
  deriving DecidableEq, Repr

/-- No global flag set. -/
def noGlobalFlags : GlobalFlags := ⟨false, false, false, false⟩

/-! ### The state kept for one class (01, section 1.1) -/

/-- The class state (R36). -/
inductive ClassState where
  | stopped
  | armed
  | running
  | suspended
  | expired
  deriving DecidableEq, Repr

/-- Everything the device keeps for one class. `waiting` is the pending contract copy (R14), `oneShot`
the repeat setting (R29), `tickOwed` a tick that has been delivered to the class and that it has not
taken yet (R33), `frameOwed` and `gateOwed` the class's copy of the last FRAME edge or GATE change, not
taken yet (R60, R61), `queue` the hold queue, oldest first (R88). -/
structure ClassRec where
  staging : Contract
  active : Contract
  waiting : Option Contract
  oneShot : Bool
  state : ClassState
  elapsed : Nat
  remaining : Nat
  carryIn : Nat
  overrun : Bool
  tickOwed : Bool
  frameOwed : Bool
  gateOwed : Bool
  outstanding : Nat
  queue : List Accepted
  live : Stats
  flags : ClassFlags
  deriving DecidableEq, Repr

/-- A class after pin reset (R31, R55, R85, R103, R143, R152). -/
def resetClass : ClassRec where
  staging := defaultContract
  active := defaultContract
  waiting := none
  oneShot := false
  state := .stopped
  elapsed := 0
  remaining := 0
  carryIn := 0
  overrun := false
  tickOwed := false
  frameOwed := false
  gateOwed := false
  outstanding := 0
  queue := []
  live := clearStats
  flags := noClassFlags

/-! ### Class map, clocking, filters, quiesce -/

/-- A value of the class map (R1). -/
inductive MapValue where
  | bypass
  | cls (n : ClassId)
  deriving DecidableEq, Repr

/-- An entry of the class map (R1). -/
structure MapEntry where
  read : MapValue
  write : MapValue
  deriving DecidableEq, Repr

/-- The TICK-DIV setting (R33). -/
inductive TickDiv where
  | d1
  | d4
  | d16
  | d64
  | d256
  deriving DecidableEq, Repr

/-- The sample interval of a line filter (R57). -/
inductive SampleInterval where
  | off
  | i1
  | i4
  | i16
  deriving DecidableEq, Repr

/-- A line filter (R57), with the raw level of its line as it was last seen. `owed` says that a tick has
been delivered to the filter whose sample it has not taken yet (R58). -/
structure Filter where
  interval : SampleInterval
  agreement : Nat
  level : Level
  run : Nat
  count : Nat
  raw : Level
  owed : Bool
  deriving DecidableEq, Repr

/-- A filter after pin reset (R65). -/
def resetFilter : Filter where
  interval := .off
  agreement := 3
  level := .low
  run := 0
  count := 0
  raw := .low
  owed := false

/-- The source that the alternation mark points at (R95). -/
inductive Source where
  | throughSlot
  | holdQueues
  deriving DecidableEq, Repr

/-- The quiesce state (R154). -/
inductive QuiesceState where
  | normal
  | quiescing
  | quiesced
  deriving DecidableEq, Repr

/-! ### The management port (R162 to R174) -/

/-- The status codes of R167. -/
inductive Status where
  | ok
  | empty
  | badCommand
  | badObject
  | badField
  | badValue
  | stateRefused
  | checkFailed
  | framing
  deriving DecidableEq, Repr

/-- A response frame less its check byte (R165). -/
structure Response where
  status : Status
  echo : Byte
  value : Word32
  flags : Byte
  deriving DecidableEq, Repr

/-- Whether a frame is open (R162). `ignoring` is the time from a release of RESET_N with MCS_N low to
the rise of MCS_N (R173). -/
inductive PortPhase where
  | idle
  | openFrame
  | ignoring
  deriving DecidableEq, Repr

/-- The port's shift state and held response. `received` holds the bits received, first bit first, and
`mdo` the response that MDO carries, absent while MDO is not driven. -/
structure Port where
  phase : PortPhase
  received : List Bool
  mdo : Option Response
  held : Response
  deriving DecidableEq, Repr

/-- The response held after pin reset (R173). -/
def resetResponse : Response := ⟨.ok, 0, 0, 0⟩

/-- The port after pin reset (R173). -/
def resetPort : Port := ⟨.idle, [], none, resetResponse⟩

/-! ### The whole device -/

/-- The state of the device. `standing` is the first beat that is presented on the downstream response channel and waits
to be taken (R109). `pending` is the queue of waiting commands, first in, first out. -/
structure State where
  resetN : Level
  tickDiv : TickDiv
  intervalDiv : TickDiv
  timebase : Time
  frame : Filter
  gate : Filter
  classMap : Vector MapEntry 64
  classes : Vector ClassRec 16
  up : UpChannel
  through : Option Accepted
  refused : Option Refused
  rrPos : ClassId
  altMark : Source
  down : Option Forward
  entries : Vector (Option Flight) 64
  discard : Option Discard
  standing : Option DownBeat
  upResp : RespChannel
  edges : Vector Nat 7
  snapshot : Option Snapshot
  log : List Capture
  captureView : Option Capture
  lost : Nat
  gflags : GlobalFlags
  enables : Vector Bool 11
  quiesce : QuiesceState
  flush : Bool
  port : Port
  pending : List Instr
  deriving DecidableEq, Repr

/-- The default histogram edges (R133). -/
def defaultEdges : Vector Nat 7 := #v[16, 32, 64, 128, 256, 512, 1024]

/-- Every block at its pin reset value, with RESET_N low (R11, R31, R55, R65, R85, R103, R126, R143, R152,
R154, R173, R182). -/
def pinResetState : State where
  resetN := .low
  tickDiv := .d1
  intervalDiv := .d1
  timebase := 0
  frame := resetFilter
  gate := resetFilter
  classMap := Vector.replicate 64 ⟨.bypass, .bypass⟩
  classes := Vector.replicate 16 resetClass
  up := .free
  through := none
  refused := none
  rrPos := 15
  altMark := .throughSlot
  down := none
  entries := Vector.replicate 64 none
  discard := none
  standing := none
  upResp := .free
  edges := defaultEdges
  snapshot := none
  log := []
  captureView := none
  lost := 0
  gflags := noGlobalFlags
  enables := Vector.replicate 11 false
  quiesce := .normal
  flush := false
  port := resetPort
  pending := []

/-- The machine right after reset: every block at its pin reset value and RESET_N released, with FRAME and
GATE low and MCS_N high (DESIGN CHOICE, unsafe: notes/assumptions/1.md). -/
def State.reset : State := { pinResetState with resetN := .high }

/-- Why a step can fault. -/
inductive Fault where
  /-- Raised by UPSTREAM_RESPONSE_CHOICE alone, when the first beat that comes to be presented names a STREAMING
  entry. R109 says that it does not arise and gives no handling. Safe: no state in which
  every STREAMING entry belongs to the response in progress reaches it (notes/assumptions/17.md). -/
  | firstBeatNamesStreaming
  deriving DecidableEq, Repr

/-- Why a command can be refused by the model. -/
inductive Refusal where
  /-- Raised by `exec`'s arm of a command that has no meaning yet. No arm raises it. Safe. -/
  | notModelled (mnemonic : String)
  deriving DecidableEq, Repr

end Sys2Proof.Machine
end

