-- ==== Sys2Proof/Machine/Ops.lean ====
section
/-! DEFINITION. The named operations over the state that the meanings share: the state of one class and
one in-flight entry, a request's length and charge, counts that saturate, the free sets, and the
eligibility of a class's head (R91). -/

namespace Sys2Proof.Machine

/-! ### Classes and entries -/

/-- What the device keeps for class `c`. -/
def State.cls (s : State) (c : ClassId) : ClassRec := s.classes[c]

/-- `s` with class `c` replaced. -/
def State.setCls (s : State) (c : ClassId) (k : ClassRec) : State :=
  { s with classes := s.classes.set c.val k c.isLt }

/-- `s` with class `c` changed by `f`. -/
def State.updCls (s : State) (c : ClassId) (f : ClassRec → ClassRec) : State :=
  s.setCls c (f (s.cls c))

/-- `s` with every class changed by `f`. -/
def State.mapCls (s : State) (f : ClassId → ClassRec → ClassRec) : State :=
  { s with classes := Vector.ofFn fun c => f c s.classes[c] }

/-- The in-flight entry of index `k`; `none` is FREE. -/
def State.entry (s : State) (k : EntryIndex) : Option Flight := s.entries[k]

/-- `s` with entry `k` replaced. -/
def State.setEntry (s : State) (k : EntryIndex) (e : Option Flight) : State :=
  { s with entries := s.entries.set k.val e k.isLt }

/-- The filter of a line (R57). -/
def State.filter (s : State) : Line → Filter
  | .frame => s.frame
  | .gate => s.gate

/-- `s` with the filter of a line replaced. -/
def State.setFilter (s : State) (line : Line) (f : Filter) : State :=
  match line with
  | .frame => { s with frame := f }
  | .gate => { s with gate := f }

/-! ### Lengths, charges, counts -/

/-- The length in beats: the wire code is the length less one (R176). -/
def beats (len : BitVec 4) : Nat := len.toNat + 1

/-- The charge of a request: its 64-byte units, rounded up (R69). -/
def chargeOf (r : Request) : Nat := (beats r.len + 3) / 4

/-- A count that saturates at `cap` (00_scope.md, Counters). -/
def satAdd (cap a b : Nat) : Nat := min (a + b) cap

/-- A 32-bit saturating count increased by `n` (R130). -/
def bump (a n : Nat) : Nat := satAdd Config.countMax a n

/-- The bus clocks of one tick under a TICK-DIV setting (R33). -/
def tickClocks : TickDiv → Nat
  | .d1 => 1
  | .d4 => 4
  | .d16 => 16
  | .d64 => 64
  | .d256 => 256

/-- The ticks of a sample interval; 0 for OFF (R62). -/
def intervalTicks : SampleInterval → Nat
  | .off => 0
  | .i1 => 1
  | .i4 => 4
  | .i16 => 16

/-- A class in ARMED or RUNNING is regulated (R37). -/
def regulated : ClassState → Bool
  | .armed => true
  | .running => true
  | _ => false

/-! ### Free sets -/

/-- The held requests of all classes. -/
def heldTotal (s : State) : Nat :=
  ((List.finRange 16).map fun c => (s.cls c).queue.length).sum

/-- A hold entry is free (R88: the 48 entries are divided between the free set and the queues). -/
def holdRoom (s : State) : Bool := decide (heldTotal s < Config.holdEntries)

/-- The lowest-numbered FREE in-flight entry (R107). -/
def lowestFree (s : State) : Option EntryIndex :=
  (List.finRange 64).find? fun k => (s.entry k).isNone

/-- The lowest-numbered entry whose TIMEOUT response is owed (R120). -/
def lowestOwed (s : State) : Option EntryIndex :=
  (List.finRange 64).find? fun k =>
    match s.entry k with
    | some f => f.owed
    | none => false

/-! ### The choice of a generated response (R120) -/

/-- The beats of a generated response (R121). -/
def generatedBeats (kind : Kind) (len : BitVec 4) : Nat :=
  match kind with
  | .read => beats len
  | .write => 1

/-- The free upstream response arbiter takes the refused slot, or else the owed TIMEOUT response of lowest index
(R120). -/
def chooseGenerated (s : State) : State :=
  if s.upResp = .free then
    match s.refused with
    | some r => { s with upResp := .generated .refusedSlot r.tag (generatedBeats r.kind r.len) }
    | none =>
      match lowestOwed s with
      | some k =>
        match s.entry k with
        | some f => { s with upResp := .generated (.owedTimeout k) f.tag (generatedBeats f.kind f.len) }
        | none => s
      | none => s
  else s

/-! ### Eligibility and the arbiter's order -/

/-- The flush option is in force (R154). -/
def flushInForce (s : State) : Bool := decide (s.quiesce = .quiescing) && s.flush

/-- The class has a head that meets every condition of R91 other than the free in-flight entry. -/
def headReady (s : State) (c : ClassId) : Bool :=
  let k := s.cls c
  match k.queue with
  | [] => false
  | a :: _ =>
    decide (k.outstanding < Config.outstandingCeiling) &&
      (flushInForce s ||
        match k.state with
        | .running => decide (a.charge ≤ k.remaining) && decide (k.outstanding < k.active.outLimit)
        | .armed => false
        | _ => true)

/-- The head of the class is eligible (R91). -/
def eligible (s : State) (c : ClassId) : Bool := (lowestFree s).isSome && headReady s c

/-- The round-robin order: from the class after the position up to 15, on from 0, and to the position
itself (R96). -/
def rrOrder (pos : ClassId) : List ClassId := (List.finRange 16).map fun i => pos + 1 + i

/-- The class whose head the arbiter grants when it grants the hold queues (R96). -/
def nextHead (s : State) : Option ClassId := (rrOrder s.rrPos).find? (eligible s)

/-- A grant waits: the through slot holds a request, or some head meets every condition of R91 other than
the free in-flight entry (R99). -/
def grantWaits (s : State) : Bool :=
  s.through.isSome || (List.finRange 16).any (headReady s)

/-- The class at which the presented request was last found when STALL left it presented (R77). -/
def stalledAt (s : State) : Option ClassId :=
  match s.up with
  | .presented _ c => c
  | _ => none

/-- A live response is being passed and its last beat has not been taken downstream (R110). -/
def livePassing (s : State) : Bool :=
  match s.upResp with
  | .live _ _ _ _ ended => !ended
  | _ => false

/-- A first beat can come to be presented downstream: no other waits there, and no response is being passed or
discarded (R175, R179). -/
def downstreamOpen (s : State) : Bool := s.standing.isNone && s.discard.isNone && !livePassing s

end Sys2Proof.Machine
end

