-- ==== Sys2Proof/Machine/Flags.lean ====
section
/-! DEFINITION. The event unit (Chapter 9): raising a flag, ALERT_N, the sets that READ-EVENTS and the event
summary show, and the raising of TABLE-FULL and QUIESCED from the state. -/

namespace Sys2Proof.Machine

/-- The seven per-class kinds (R145). -/
inductive ClassKind where
  | overrun
  | holdFull
  | timeout
  | late
  | capture
  | expired
  | shortPeriod
  deriving DecidableEq, Repr

/-- The four global kinds (R145). -/
inductive GlobalKind where
  | stray
  | tableFull
  | captureLost
  | quiesced
  deriving DecidableEq, Repr

/-- The per-class kinds in the order of their kind numbers 0 to 6 (R145). -/
def classKinds : List ClassKind :=
  [.overrun, .holdFull, .timeout, .late, .capture, .expired, .shortPeriod]

/-- The global kinds in the order of their kind numbers 7 to 10 (R145). -/
def globalKinds : List GlobalKind := [.stray, .tableFull, .captureLost, .quiesced]

/-- The kind number (R145). -/
def classKindNumber : ClassKind → Fin 11
  | .overrun => 0
  | .holdFull => 1
  | .timeout => 2
  | .late => 3
  | .capture => 4
  | .expired => 5
  | .shortPeriod => 6

/-- The kind number (R145). -/
def globalKindNumber : GlobalKind → Fin 11
  | .stray => 7
  | .tableFull => 8
  | .captureLost => 9
  | .quiesced => 10

/-- A per-class flag. -/
def classFlag (f : ClassFlags) : ClassKind → Bool
  | .overrun => f.overrun
  | .holdFull => f.holdFull
  | .timeout => f.timeout
  | .late => f.late
  | .capture => f.capture
  | .expired => f.expired
  | .shortPeriod => f.shortPeriod

/-- A global flag. -/
def globalFlag (f : GlobalFlags) : GlobalKind → Bool
  | .stray => f.stray
  | .tableFull => f.tableFull
  | .captureLost => f.captureLost
  | .quiesced => f.quiesced

/-- The class with the flag of the kind set (R146). -/
def raiseAt (kind : ClassKind) (k : ClassRec) : ClassRec :=
  match kind with
  | .overrun => { k with flags := { k.flags with overrun := true } }
  | .holdFull => { k with flags := { k.flags with holdFull := true } }
  | .timeout => { k with flags := { k.flags with timeout := true } }
  | .late => { k with flags := { k.flags with late := true } }
  | .capture => { k with flags := { k.flags with capture := true } }
  | .expired => { k with flags := { k.flags with expired := true } }
  | .shortPeriod => { k with flags := { k.flags with shortPeriod := true } }

/-- The state with the global flag of the kind set (R146). -/
def raiseGlobal (kind : GlobalKind) (s : State) : State :=
  match kind with
  | .stray => { s with gflags := { s.gflags with stray := true } }
  | .tableFull => { s with gflags := { s.gflags with tableFull := true } }
  | .captureLost => { s with gflags := { s.gflags with captureLost := true } }
  | .quiesced => { s with gflags := { s.gflags with quiesced := true } }

/-! ### ALERT_N (R147) -/

/-- Some flag of an enabled kind is set. -/
def alertCause (s : State) : Bool :=
  (List.finRange 16).any (fun c =>
    classKinds.any fun kind => classFlag (s.cls c).flags kind && s.enables[classKindNumber kind]) ||
  globalKinds.any fun kind => globalFlag s.gflags kind && s.enables[globalKindNumber kind]

/-- ALERT_N is pulled low. While RESET_N is low it is released (R147). -/
def alertActive (s : State) : Bool := decide (s.resetN = .high) && alertCause s

/-! ### Flag sets in a value word (R165) -/

/-- A word with bit `n` set, or 0. -/
def flagBit (set : Bool) (n : Nat) : Word32 := if set then 1#32 <<< n else 0#32

/-- The seven flags of a class as READ-EVENTS returns them (R165). -/
def classFlagWord (f : ClassFlags) : Word32 :=
  (classKinds.map fun kind => flagBit (classFlag f kind) (classKindNumber kind).val).foldr (· ||| ·) 0#32

/-- The four global flags as READ-EVENTS returns them (R165). -/
def globalFlagWord (f : GlobalFlags) : Word32 :=
  (globalKinds.map fun kind => flagBit (globalFlag f kind) (globalKindNumber kind).val).foldr
    (· ||| ·) 0#32

/-- The class has a flag set (R151). -/
def anyClassFlag (f : ClassFlags) : Bool := classKinds.any (classFlag f)

/-- A global flag is set (R151). -/
def anyGlobalFlag (f : GlobalFlags) : Bool := globalKinds.any (globalFlag f)

/-- The event summary (R151, R165). -/
def eventSummary (s : State) : Word32 :=
  ((List.finRange 16).map fun c => flagBit (anyClassFlag (s.cls c).flags) c.val).foldr (· ||| ·)
    (flagBit (anyGlobalFlag s.gflags) 16)

/-! ### TABLE-FULL (R99) and QUIESCED (R157) -/

/-- The happening from `s` to `t` brings a full table and a waiting grant together: it takes the last free
entry, puts a request into the through slot, or makes a head meet the other conditions of R91. -/
def bringsTableFull (s t : State) : Bool :=
  (lowestFree t).isNone && grantWaits t &&
    ((lowestFree s).isSome || (t.through.isSome && s.through.isNone) ||
      (List.finRange 16).any fun c => headReady t c && !headReady s c)

/-- `t` with TABLE-FULL raised if the happening from `s` to `t` calls for it (R99). -/
def noteTableFull (s t : State) : State :=
  if bringsTableFull s t then raiseGlobal .tableFull t else t

/-- The four conditions of a complete drain (R157). -/
def drained (s : State) : Bool :=
  (List.finRange 16).all (fun c => (s.cls c).queue.isEmpty) && s.through.isNone && s.refused.isNone &&
    (List.finRange 64).all fun k =>
      match s.entry k with
      | none => true
      | some f => decide (f.phase = .abandoned) && !f.owed

/-- The test of the drain condition in a happening (R157): while QUIESCING, a complete drain makes the
device QUIESCED and raises QUIESCED. -/
def testDrain (s : State) : State :=
  if s.quiesce = .quiescing ∧ drained s = true then
    raiseGlobal .quiesced { s with quiesce := .quiesced }
  else s

end Sys2Proof.Machine
end

