-- ==== Sys2Proof/Machine/Period.lean ====
section
/-! DEFINITION. The period engine (Chapter 3) at one class: boundary, ticks, reference forward notices, FRAME
edges, GATE level changes, START and STOP. A happening at a class gives the class as it leaves it, and
whether it hands a notice to the hold store and the admission unit (R37): a change of class state, a
refill, or a contract becoming active. -/

namespace Sys2Proof.Machine

/-! ### The boundary (R48) -/

/-- The filtered GATE level is active under a line polarity (03, section 3.7). -/
def gateActive : Level → Polarity → Bool
  | .high, .risingHigh => true
  | .low, .fallingLow => true
  | _, _ => false

/-- The budget plus the lesser of the leftover and the carry cap (R36). -/
def refill (k : Contract) (leftover : Nat) : Nat := k.budget + min leftover k.carryCap

/-- Step 1 of R48: the period closes. -/
def closePeriod (k : ClassRec) : ClassRec :=
  { k with
    overrun := false
    live := { k.live with periodsCompleted := bump k.live.periodsCompleted 1 } }

/-- The pending copy, if present, becomes the active contract (R25). -/
def applyWaiting (k : ClassRec) : ClassRec :=
  match k.waiting with
  | some c => { k with active := c, waiting := none }
  | none => k

/-- A class keeps the copy of an edge that it owes only while its active mode uses the line: one that a boundary makes
receptive waits for the next edge (R60, R61). -/
def keepCopies (k : ClassRec) : ClassRec :=
  { k with
    frameOwed := k.frameOwed && decide (k.active.mode = .synced)
    gateOwed := k.gateOwed && decide (k.active.mode = .gated) }

/-- The class expires (R49). An edge is not kept for it (R60, R61). -/
def expireClass (k : ClassRec) : ClassRec :=
  raiseAt .expired
    { k with
      state := .expired
      remaining := 0
      elapsed := 0
      carryIn := 0
      frameOwed := false
      gateOwed := false }

/-- The new period of a boundary under CONTINUOUS, step 5 of R48. `old` is the contract that ran the closed
period, `k` the class after the pending copy has been applied, with the leftover as its remaining
budget; `early` says that an early qualifying edge ended the period (R28, R42, R43). -/
def beginNext (gate : Level) (early : Bool) (old : Contract) (k : ClassRec) : ClassRec :=
  let refilled := { k with elapsed := 0, carryIn := 0, remaining := refill k.active k.remaining }
  match k.active.mode with
  | .timed => { refilled with state := .running }
  | .counted => { refilled with state := .running }
  | .gated =>
    if (old.mode = .gated ∧ old.polarity = k.active.polarity) ∨
        gateActive gate k.active.polarity = true then
      { refilled with state := .running }
    else { refilled with state := .suspended }
  | .synced =>
    if early = true ∧ old.polarity = k.active.polarity ∧ old.syncEnd = k.active.syncEnd then
      { refilled with state := .running }
    else { k with elapsed := 0, carryIn := k.remaining, remaining := 0, state := .armed }

/-- The boundary of a class (R48, R49). -/
def boundary (gate : Level) (early : Bool) (k : ClassRec) : ClassRec :=
  let closed := keepCopies (applyWaiting (closePeriod k))
  let noted := if early then raiseAt .shortPeriod closed else closed
  if k.oneShot then expireClass noted else beginNext gate early k.active noted

/-! ### Ticks and reference forwards -/

/-- The next advance of the elapsed count reaches the active period length. -/
def advanceCompletes (k : ClassRec) : Bool := decide (k.elapsed + 1 = k.active.length)

/-- One advance of the elapsed count, which is a boundary when it reaches the period length (R40, R42, R45,
R46). -/
def advance (gate : Level) (k : ClassRec) : ClassRec × Bool :=
  if advanceCompletes k then (boundary gate false k, true)
  else ({ k with elapsed := k.elapsed + 1 }, false)

/-- Ticks are delivered to a class of this mode (R33). -/
def tickDriven : Mode → Bool
  | .counted => false
  | _ => true

/-- A tick taken by the class advances its elapsed count (R40, R42, R46). -/
def tickAdvances (k : ClassRec) : Bool := decide (k.state = .running) && tickDriven k.active.mode

/-- The class takes a tick. -/
def takeTick (gate : Level) (k : ClassRec) : ClassRec × Bool :=
  if tickAdvances k then advance gate k else (k, false)

/-- The class takes the tick that it owes. -/
def takeOwedTick (gate : Level) (k : ClassRec) : ClassRec × Bool :=
  if k.tickOwed then takeTick gate { k with tickOwed := false } else (k, false)

/-- A tick is delivered to the class. The class takes it at once, unless it takes it later or the tick is a
boundary, which is a happening of its own (R33; notes/assumptions/4.md). -/
def tickDelivered (takesLater : Bool) (k : ClassRec) : ClassRec :=
  if tickDriven k.active.mode then
    if takesLater || (tickAdvances k && advanceCompletes k) then { k with tickOwed := true }
    else if tickAdvances k then { k with elapsed := k.elapsed + 1 }
    else k
  else k

/-- A forward of a request of class `c` is notified to the class (R45). -/
def referenceNotice (gate : Level) (c : ClassId) (k : ClassRec) : ClassRec × Bool :=
  if k.state = .running ∧ k.active.mode = .counted ∧ k.active.reference = c then advance gate k
  else (k, false)

/-! ### FRAME edges and GATE level changes -/

/-- The edge to the given filtered level is the qualifying one (R41). -/
def qualifying : Level → Polarity → Bool
  | .high, .risingHigh => true
  | .low, .fallingLow => true
  | _, _ => false

/-- A FRAME edge to the level `edge` is delivered to the class (R41 to R44, R60). -/
def frameEdge (gate edge : Level) (k : ClassRec) : ClassRec × Bool :=
  match k.active.mode, k.state with
  | .synced, .armed =>
    if qualifying edge k.active.polarity then
      ({ k with
          state := .running
          elapsed := 0
          remaining := refill k.active k.carryIn
          carryIn := 0 }, true)
    else (k, false)
  | .synced, .running =>
    if qualifying edge k.active.polarity then (boundary gate true k, true)
    else if k.active.syncEnd = .edgeOrLength then (boundary gate false k, true)
    else (k, false)
  | _, _ => (k, false)

/-- A change of the filtered GATE level is delivered to the class (R46, R47, R61). -/
def gateChange (level : Level) (k : ClassRec) : ClassRec × Bool :=
  match k.active.mode, k.state with
  | .gated, .running =>
    if gateActive level k.active.polarity then (k, false) else ({ k with state := .suspended }, true)
  | .gated, .suspended =>
    if gateActive level k.active.polarity then ({ k with state := .running }, true) else (k, false)
  | _, _ => (k, false)

/-! ### The copies of an edge (R60, R61) -/

/-- The class receives the edges of the line as it stands (R60, R61). -/
def receptive (line : Line) (k : ClassRec) : Bool :=
  match line, k.active.mode, k.state with
  | .frame, .synced, .armed => true
  | .frame, .synced, .running => true
  | .gate, .gated, .running => true
  | .gate, .gated, .suspended => true
  | _, _, _ => false

/-- The class after an edge of the line has been taken at the filter: it owes its copy if it is receptive. -/
def oweCopy (line : Line) (k : ClassRec) : ClassRec :=
  if receptive line k then
    match line with
    | .frame => { k with frameOwed := true }
    | .gate => { k with gateOwed := true }
  else k

/-- The class takes the copy that it owes. `gate` is the filtered GATE level, `level` that of the line. -/
def takeOwedCopy (line : Line) (gate level : Level) (k : ClassRec) : ClassRec × Bool :=
  match line with
  | .frame => if k.frameOwed then frameEdge gate level { k with frameOwed := false } else (k, false)
  | .gate => if k.gateOwed then gateChange level { k with gateOwed := false } else (k, false)

/-! ### START and STOP -/

/-- The class that START leaves (R38). -/
def startClass (gate : Level) (k : ClassRec) : ClassRec :=
  match k.active.mode with
  | .timed => { k with state := .running, elapsed := 0, remaining := k.active.budget }
  | .counted => { k with state := .running, elapsed := 0, remaining := k.active.budget }
  | .synced => { k with state := .armed, elapsed := 0, remaining := 0, carryIn := 0 }
  | .gated =>
    { k with
      state := if gateActive gate k.active.polarity then .running else .suspended
      elapsed := 0
      remaining := k.active.budget }

/-- The class that STOP leaves (R39). An edge is not kept for it (R60, R61). -/
def stopClass (k : ClassRec) : ClassRec :=
  { applyWaiting k with
    state := .stopped
    remaining := 0
    elapsed := 0
    carryIn := 0
    overrun := false
    frameOwed := false
    gateOwed := false }

end Sys2Proof.Machine
end

