-- ==== Sys2Proof/Machine/Admission.lean ====
section
/-! DEFINITION. The classifier and the admission unit (Chapters 1 and 5): the admission decision, the new
decisions of a stalled request, and the taking of write data. -/

namespace Sys2Proof.Machine

/-- The class map value for a request (R2). -/
def classify (s : State) (r : Request) : MapValue :=
  match r.kind with
  | .read => s.classMap[r.initiator].read
  | .write => s.classMap[r.initiator].write

/-- The acceptance condition (R67). -/
def acceptance (s : State) : Bool :=
  s.through.isNone && s.refused.isNone && decide (s.quiesce = .normal)

/-- What an acceptance records with the request (R68). -/
def acceptedRequest (s : State) (r : Request) (c : Option ClassId) (marked : Bool)
    (urgency : BitVec 2) : Accepted where
  request := r
  cls := c
  charge := chargeOf r
  arrival := s.timebase
  marked := marked
  urgency := urgency
  data := []

/-- The upstream request channel after the header has been taken: a WRITE brings its data beats
(R177). -/
def afterHeader (r : Request) (place : Place) : UpChannel :=
  match r.kind with
  | .read => .free
  | .write => .taking place (beats r.len)

/-- The request enters the through slot (R78). -/
def enterThrough (a : Accepted) (s : State) : State :=
  { s with through := some a, up := afterHeader a.request .through }

/-- What the refused slot keeps of a request accepted now (R3, R68, R69, R73). -/
def refusedRequest (s : State) (r : Request) : Refused where
  kind := r.kind
  len := r.len
  initiator := r.initiator
  tag := r.tag
  charge := chargeOf r
  arrival := s.timebase
  marked := false
  urgency := r.urgency

/-- The request of class `c` fills the refused slot (R73). -/
def fillRefused (c : ClassId) (r : Request) (s : State) : State :=
  { s with
    refused := some (refusedRequest s r)
    up := afterHeader r .refusedSlot }.updCls c fun k =>
      { k with live := { k.live with requestsRefused := bump k.live.requestsRefused 1 } }

/-- The request of class `c` is accepted into the refused slot, which a free upstream response arbiter chooses in the
same happening (R73, R120). -/
def enterRefused (c : ClassId) (r : Request) (s : State) : State := chooseGenerated (fillRefused c r s)

/-- The request joins the hold queue of class `c` (R74, R89). -/
def joinQueue (c : ClassId) (r : Request) (s : State) : State :=
  { s with up := afterHeader r (.held c) }.updCls c fun k =>
    { k with
      queue := k.queue ++ [acceptedRequest s r (some c) false r.urgency]
      live := { k.live with requestsHeld := bump k.live.requestsHeld 1 } }

/-- A join of class `c` succeeds (R74). -/
def canJoin (s : State) (c : ClassId) : Bool :=
  holdRoom s && decide ((s.cls c).queue.length < (s.cls c).active.holdLimit)

/-- A join attempt, with the overflow action when it fails (R74, R75, R76). -/
def attemptJoin (c : ClassId) (r : Request) (s : State) : State :=
  if canJoin s c then joinQueue c r s
  else
    let raised := s.updCls c (raiseAt .holdFull)
    match (s.cls c).active.overflow with
    | .refuse => enterRefused c r raised
    | .stall => { raised with up := .presented r (some c) }

/-- The overrun mark is set by the over-budget step (R71). -/
def setOverrun (k : ClassRec) : ClassRec :=
  if k.overrun then k
  else
    raiseAt .overrun
      { k with
        overrun := true
        live := { k.live with overBudgetPeriods := bump k.live.overBudgetPeriods 1 } }

/-- The request passes to the through slot uncharged (step 3 of R70). -/
def passUnregulated (c : ClassId) (r : Request) (s : State) : State :=
  (enterThrough (acceptedRequest s r (some c) false r.urgency) s).updCls c fun k =>
    { k with outstanding := k.outstanding + 1 }

/-- The request passes to the through slot and is charged (step 5 of R70, R51). -/
def passCharged (c : ClassId) (r : Request) (s : State) : State :=
  (enterThrough (acceptedRequest s r (some c) false r.urgency) s).updCls c fun k =>
    { k with
      outstanding := k.outstanding + 1
      remaining := k.remaining - chargeOf r
      live := { k.live with unitsCharged := bump k.live.unitsCharged (chargeOf r) } }

/-- The request passes to the through slot marked (R72). -/
def passMarked (c : ClassId) (r : Request) (s : State) : State :=
  (enterThrough
      (acceptedRequest s r (some c) true (BitVec.ofNat 2 (s.cls c).active.markedUrgency)) s).updCls c
    fun k =>
      { k with
        outstanding := k.outstanding + 1
        live := { k.live with unitsMarked := bump k.live.unitsMarked (chargeOf r) } }

/-- Step 6 of R70: the overrun mark, then the over-budget action. -/
def overBudgetStep (c : ClassId) (r : Request) (s : State) : State :=
  let marked := s.updCls c setOverrun
  match (s.cls c).active.overBudget with
  | .hold => attemptJoin c r marked
  | .mark => passMarked c r marked
  | .reject => enterRefused c r marked

/-- Steps 2 to 6 of R70, for a request that the classifier gives the class `c`. -/
def decideClassed (c : ClassId) (r : Request) (s : State) : State :=
  let k := s.cls c
  if k.queue ≠ [] then attemptJoin c r s
  else if regulated k.state = false then
    if k.outstanding < Config.outstandingCeiling then passUnregulated c r s else attemptJoin c r s
  else if k.active.outLimit ≤ k.outstanding then attemptJoin c r s
  else if chargeOf r ≤ k.remaining then passCharged c r s
  else overBudgetStep c r s

/-- The admission decision on a presented request (R70). -/
def decideRequest (r : Request) (s : State) : State :=
  match classify s r with
  | .bypass => enterThrough (acceptedRequest s r none false r.urgency) s
  | .cls c => decideClassed c r s

/-- The presented request, stalled or not, is decided if the acceptance condition holds (R67). -/
def decidePresented (s : State) : State :=
  match s.up with
  | .presented r _ => if acceptance s then decideRequest r s else s
  | _ => s

/-- A request that STALL left presented is decided again if the acceptance condition holds (R77). -/
def redecide (s : State) : State :=
  if (stalledAt s).isSome then decidePresented s else s

/-- A happening of R77 at class `c`: the stalled request is decided again if it was last found at
`c`. -/
def redecideAt (c : ClassId) (s : State) : State :=
  if stalledAt s = some c then decidePresented s else s

/-! ### Happenings at classes, with their notices -/

/-- A happening of the period engine at class `c`, and the new decision that its notice causes (R37,
R77). -/
def atClass (c : ClassId) (f : ClassRec → ClassRec × Bool) (s : State) : State :=
  let out := f (s.cls c)
  let t := s.setCls c out.1
  if out.2 then redecideAt c t else t

/-- The state after the same happening has been delivered to every class, before any new decision. -/
def deliverAll (f : ClassId → ClassRec → ClassRec × Bool) (s : State) : State :=
  s.mapCls fun c k => (f c k).1

/-- The happening hands a notice to the class at which the presented request was last found. -/
def noticesStalled (f : ClassId → ClassRec → ClassRec × Bool) (s : State) : Bool :=
  match stalledAt s with
  | some c => (f c (s.cls c)).2
  | none => false

/-- The notice of a forward, given to every class in the happening of the forward, and the new decision that it causes
(R45, R77). -/
def atAllClasses (f : ClassId → ClassRec → ClassRec × Bool) (s : State) : State :=
  if noticesStalled f s then redecide (deliverAll f s) else deliverAll f s

/-! ### The presented request (R67, R70, R177) -/

/-- The interconnect offers a header. It can offer one only while the upstream request channel is free
(R177). -/
def offerHeader (offered : Option Request) (s : State) : State :=
  match s.up, offered with
  | .free, some r => { s with up := .presented r none }
  | _, _ => s

/-- A presented request that has not been decided is decided if the acceptance condition holds (R67). -/
def decideUndecided (s : State) : State :=
  if stalledAt s = none then decidePresented s else s

/-! ### Write data (R177) -/

/-- The list with its last element changed. -/
def changeLast (f : Accepted → Accepted) : List Accepted → List Accepted
  | [] => []
  | [a] => [f a]
  | a :: b :: l => a :: changeLast f (b :: l)

/-- The request with one more data beat. -/
def addData (d : Data) (a : Accepted) : Accepted := { a with data := a.data ++ [d] }

/-- The data beat goes to the request's place (R177); at the refused slot it is discarded (R73). -/
def storeBeat (place : Place) (d : Data) (s : State) : State :=
  match place with
  | .through => { s with through := s.through.map (addData d) }
  | .held c => s.updCls c fun k => { k with queue := changeLast (addData d) k.queue }
  | .refusedSlot => s
  | .forwarded => { s with down := s.down.map fun f => { f with data := f.data ++ [d] } }

/-- The channel after one more data beat: free after the last. -/
def afterBeat (place : Place) (beatsLeft : Nat) : UpChannel :=
  if beatsLeft ≤ 1 then .free else .taking place (beatsLeft - 1)

/-- A data beat of the WRITE being taken. When none is being taken, READY is low and nothing crosses
(R175). -/
def takeDataBeat (d : Data) (s : State) : State :=
  match s.up with
  | .taking place n => { storeBeat place d s with up := afterBeat place n }
  | _ => s

end Sys2Proof.Machine
end

