-- ==== Sys2Proof/Machine/Measure.lean ====
section
/-! DEFINITION. The measurement unit (Chapter 8): intervals, the live statistics record, the histogram and the
capture log, as one completion notice changes them. -/

namespace Sys2Proof.Machine

/-! ### Intervals (R129) -/

/-- The ticks from `a` to `b`, modulo 2^32 and saturated (R129). -/
def span (a b : Time) : Nat := min (b - a).toNat Config.intervalMax

/-- The hold interval: from arrival to forward. -/
def holdTicks (f : Flight) : Nat := span f.arrival f.forwardTime

/-- The wait interval: from forward to the first beat, or to the abandonment for TIMEOUT. -/
def waitTicks (f : Flight) (status : RespStatus) (completion : Time) : Nat :=
  match status with
  | .timeout => span f.forwardTime completion
  | _ => span f.forwardTime (f.firstBeat.getD completion)

/-- The stream interval of a READ that was answered. For a WRITE it is 0 and reaches no field, and for
TIMEOUT it is absent (R129, R132, R139). -/
def streamTicks (f : Flight) (status : RespStatus) (completion : Time) : Option Nat :=
  match status, f.kind with
  | .timeout, _ => none
  | _, .write => none
  | _, .read => some (span (f.firstBeat.getD completion) completion)

/-! ### The live record (R131 to R133) -/

/-- The bin a wait falls in: the first whose upper edge is above it, else bin 7 (R133). -/
def binOf (edges : Vector Nat 7) (w : Nat) : Fin 8 :=
  match (List.finRange 7).find? fun i => decide (w < edges[i]) with
  | some i => i.castSucc
  | none => 7

/-- A wait sampled (R132). -/
def sampleWait (edges : Vector Nat 7) (w : Nat) (st : Stats) : Stats :=
  let b := binOf edges w
  { st with
    waitMin := min w st.waitMin
    waitMax := max w st.waitMax
    waitSum := satAdd Config.waitSumMax st.waitSum w
    bins := st.bins.set b.val (bump st.bins[b] 1) b.isLt }

/-- The stream interval sampled, where there is one (R132). -/
def sampleStream (stream : Option Nat) (st : Stats) : Stats :=
  match stream with
  | some n => { st with streamMax := max n st.streamMax }
  | none => st

/-- The count that a notice of this status increases (R131). -/
def countCompletion (status : RespStatus) (st : Stats) : Stats :=
  match status with
  | .okay => { st with completions := bump st.completions 1 }
  | .timeout => { st with timeouts := bump st.timeouts 1 }
  | _ => { st with errorCompletions := bump st.errorCompletions 1 }

/-- The live record after a completion notice (R131, R132). -/
def noticeStats (edges : Vector Nat 7) (f : Flight) (status : RespStatus) (completion : Time)
    (st : Stats) : Stats :=
  let held := { countCompletion status st with holdMax := max (holdTicks f) st.holdMax }
  match status with
  | .timeout => held
  | _ => sampleStream (streamTicks f status completion)
      (sampleWait edges (waitTicks f status completion) held)

/-! ### Capture (R139, R140) -/

/-- A notice writes a capture record (R139). -/
def captures (threshold : Nat) (f : Flight) (status : RespStatus) (completion : Time) : Bool :=
  decide (threshold ≠ 0) &&
    (decide (status = .timeout) || decide (threshold ≤ waitTicks f status completion))

/-- The capture record of a notice (R139). -/
def captureOf (c : ClassId) (f : Flight) (status : RespStatus) (completion : Time) : Capture where
  cls := c
  initiator := f.initiator
  tag := f.tag
  kind := f.kind
  address := f.address
  len := f.len
  hold := holdTicks f
  wait := waitTicks f status completion
  stream := streamTicks f status completion
  status := status
  marked := f.marked
  completion := completion

/-- The capture log takes a record or drops it (R140). -/
def logCapture (r : Capture) (s : State) : State :=
  if s.log.length < Config.logRecords then
    { s with log := s.log ++ [r] }.updCls r.cls (raiseAt .capture)
  else
    raiseGlobal .captureLost { s with lost := satAdd Config.lostMax s.lost 1 }

/-- A completion notice of class `c`, taken at the present timebase (R128). -/
def completionNotice (c : ClassId) (f : Flight) (status : RespStatus) (s : State) : State :=
  let now := s.timebase
  let s1 := s.updCls c fun k => { k with live := noticeStats s.edges f status now k.live }
  if captures (s.cls c).active.captureThreshold f status now then
    logCapture (captureOf c f status now) s1
  else s1

end Sys2Proof.Machine
end

