-- ==== Sys2Proof/Machine/InFlight.lean ====
section
/-! DEFINITION. The in-flight table (Chapter 7): allocation, completion, abandonment, deadlines, late and
stray responses. -/

namespace Sys2Proof.Machine

/-! ### Allocation (R107, R113) -/

/-- The deadline of a request forwarded now: the forward time plus the response limit of its class's active
contract, or none (R113). -/
def deadlineOf (s : State) (c : Option ClassId) : Option Time :=
  match c with
  | none => none
  | some n =>
    if (s.cls n).active.responseLimit = 0 then none
    else some (s.timebase + BitVec.ofNat 32 (s.cls n).active.responseLimit)

/-- The entry that a grant fills from a request (R107). -/
def flightOf (s : State) (a : Accepted) : Flight where
  phase := .pending
  cls := a.cls
  kind := a.request.kind
  address := a.request.address
  len := a.request.len
  initiator := a.request.initiator
  tag := a.request.tag
  marked := a.marked
  arrival := a.arrival
  forwardTime := s.timebase
  firstBeat := none
  deadline := deadlineOf s a.cls
  owed := false
  lateConsumed := false

/-! ### The end of a request's life -/

/-- The outstanding count of the request's class falls (R80). -/
def lowerOutstanding (c : ClassId) (s : State) : State :=
  s.updCls c fun k => { k with outstanding := k.outstanding - 1 }

/-- The completion of a live response: the entry becomes FREE and, for a classed request, the outstanding
count falls, the measurement unit takes its notice and a stalled request sees the fall (R112). -/
def completeEntry (k : EntryIndex) (f : Flight) (status : RespStatus) (s : State) : State :=
  let freed := s.setEntry k none
  match f.cls with
  | none => testDrain freed
  | some c =>
    testDrain (redecideAt c (completionNotice c f status (lowerOutstanding c freed)))

/-- The entry after its abandonment (R114, step 1). -/
def abandonedFlight (f : Flight) : Flight :=
  { f with phase := .abandoned, owed := true, lateConsumed := false }

/-- The abandonment of a PENDING entry, before any choice of its TIMEOUT response (R114). -/
def loseRequest (k : EntryIndex) (f : Flight) (s : State) : State :=
  let gone := s.setEntry k (some (abandonedFlight f))
  match f.cls with
  | none => testDrain gone
  | some c =>
    testDrain (redecideAt c (completionNotice c f .timeout
      ((lowerOutstanding c gone).updCls c (raiseAt .timeout))))

/-- The abandonment of a PENDING entry. A free upstream response arbiter chooses a response in the same happening
(R114, R120), before a grant that the fall of the outstanding count opens: a DESIGN CHOICE (notes/assumptions/32.md). -/
def abandonEntry (k : EntryIndex) (f : Flight) (s : State) : State := chooseGenerated (loseRequest k f s)

/-! ### Deadlines (R113) -/

/-- The entry takes the tick that is its deadline. -/
def reachDeadline (k : EntryIndex) (s : State) : State :=
  match s.entry k with
  | some f =>
    if f.phase = .pending ∧ f.deadline = some s.timebase then abandonEntry k f s else s
  | none => s

/-! ### Late responses (R117, R119) -/

/-- The last beat of a late response: the late-consumed mark is set, and the entry becomes FREE if its
owed-timeout mark is clear (R119). -/
def consumeLate (k : EntryIndex) (s : State) : State :=
  match s.entry k with
  | some f =>
    if f.phase = .abandoned then
      s.setEntry k (if f.owed then some { f with lateConsumed := true } else none)
    else s
  | none => s

/-- The first beat of a late response to a classed request raises LATE and is counted (R117). -/
def noteLate (c : Option ClassId) (s : State) : State :=
  match c with
  | none => s
  | some n =>
    s.updCls n fun k =>
      raiseAt .late
        { k with live := { k.live with lateResponses := bump k.live.lateResponses 1 } }

/-- The first beat of a response to the ABANDONED entry `k` whose late response has not been consumed. A
late response to a WRITE ends at its first beat (R117, R179). The entry's first-beat time stays absent: a DESIGN CHOICE
(R106; notes/assumptions/33.md). -/
def beginLate (k : EntryIndex) (f : Flight) (last : Bool) (s : State) : State :=
  if f.kind = .write ∨ last = true then consumeLate k (noteLate f.cls s)
  else { noteLate f.cls s with discard := some (.late k) }

/-- The first beat presented on the downstream response channel: the one that waits there, or else the given one
(R109). -/
def firstPresented (b : DownBeat) (s : State) : DownBeat := s.standing.getD b

/-- A beat of a late response. While another response is on the downstream channel, the beat is no late
response's (R179), and nothing happens. -/
def lateBeat (b : DownBeat) (s : State) : State :=
  match s.discard with
  | some (.late k) => if b.last then consumeLate k { s with discard := none } else s
  | some .stray => s
  | none =>
    if livePassing s then s
    else
      let p := firstPresented b s
      match s.entry p.tag with
      | some f =>
        if f.phase = .abandoned ∧ f.lateConsumed = false then
          beginLate p.tag f p.last { s with standing := none }
        else s
      | none => s

/-! ### Stray responses (R118) -/

/-- The first beat of a stray response raises STRAY. `ends` says that the response ends there. -/
def beginStray (ends : Bool) (s : State) : State :=
  let raised := raiseGlobal .stray s
  if ends then raised else { raised with discard := some .stray }

/-- A beat of a stray response. -/
def strayBeat (b : DownBeat) (s : State) : State :=
  match s.discard with
  | some .stray => if b.last then { s with discard := none } else s
  | some (.late _) => s
  | none =>
    if livePassing s then s
    else
      let p := firstPresented b s
      match s.entry p.tag with
      | none => beginStray p.last { s with standing := none }
      | some f =>
        if f.phase = .abandoned ∧ f.lateConsumed = true then
          beginStray (p.last || decide (f.kind = .write)) { s with standing := none }
        else s

end Sys2Proof.Machine
end

