-- ==== Sys2Proof/Machine/Arbiter.lean ====
section
/-! DEFINITION. The downstream request arbiter and its channel (Chapters 6 and 12): the grant of each source, and the
taking of a forward. -/

namespace Sys2Proof.Machine

/-- The header of the forward of a request that is given the entry `k` (R108). -/
def headerOf (k : EntryIndex) (a : Accepted) : DownHeader where
  kind := a.request.kind
  address := a.request.address
  len := a.request.len
  initiator := a.request.initiator
  tag := k
  urgency := a.urgency

/-- The request leaves on the downstream request channel under the tag of the entry it is given (R107,
R108). -/
def forwardOut (k : EntryIndex) (a : Accepted) (s : State) : State :=
  { s.setEntry k (some (flightOf s a)) with down := some ⟨headerOf k a, a.data, 0⟩ }

/-- The write data still to come goes to the forwarded request, if it was bound for the place that the
request has left (R177, R178). -/
def redirectData (left : Place) (up : UpChannel) : UpChannel :=
  match up with
  | .taking place n => if place = left then .taking .forwarded n else .taking place n
  | u => u

/-- A forward of a request of this class is notified to the COUNTED classes; a BYPASS request gives no
notice (R45). -/
def forwardNotice (gate : Level) (c : Option ClassId) (k : ClassRec) : ClassRec × Bool :=
  match c with
  | none => (k, false)
  | some n => referenceNotice gate n k

/-! ### The grant of the through slot (R78, R94, R95) -/

/-- The through slot may be granted: the channel and an entry are free, and no head is eligible or the
alternation mark points at the through slot. -/
def throughGranted (s : State) : Bool :=
  s.down.isNone && ((nextHead s).isNone || decide (s.altMark = .throughSlot))

/-- The grant of the through slot, before the notices. -/
def takeThrough (k : EntryIndex) (a : Accepted) (s : State) : State :=
  { forwardOut k a s with
    through := none
    altMark := .holdQueues
    up := redirectData .through s.up }

/-- The grant of the through slot. -/
def grantThrough (s : State) : State :=
  match s.through, lowestFree s with
  | some a, some k =>
    if throughGranted s then
      testDrain (atAllClasses (fun _ => forwardNotice s.gate.level a.cls) (takeThrough k a s))
    else s
  | _, _ => s

/-! ### The grant of a head (R97) -/

/-- What the grant of a head takes from the remaining budget: nothing in an unregulated state, the remaining
budget itself in ARMED, and the charge in RUNNING, or the remaining budget where the charge is larger
(R97, step 2). -/
def headReduction (k : ClassRec) (charge : Nat) : Nat :=
  match k.state with
  | .running => min charge k.remaining
  | .armed => k.remaining
  | _ => 0

/-- Steps 1 to 3 of R97 at the class. -/
def releaseHead (charge : Nat) (rest : List Accepted) (k : ClassRec) : ClassRec :=
  { k with
    queue := rest
    remaining := k.remaining - headReduction k charge
    live := { k.live with unitsCharged := bump k.live.unitsCharged (headReduction k charge) }
    outstanding := k.outstanding + 1 }

/-- The grant of the head `a` of class `c`, before the notices and the new decision. A held request has no
marked flag (R87, R97 step 4). The data of a WRITE still being taken follows the request if it is the
one granted: the newest held request is the one whose data arrives, so it is the head when nothing is
behind it. -/
def takeHead (c : ClassId) (k : EntryIndex) (a : Accepted) (rest : List Accepted) (s : State) : State :=
  { (forwardOut k { a with marked := false } s).updCls c (releaseHead a.charge rest) with
    rrPos := c
    altMark := .throughSlot
    up := if rest = [] then redirectData (.held c) s.up else s.up }

/-- The hold queues may be granted: the channel is free, and the through slot does not wait or the
alternation mark points at the hold queues. -/
def queuesGranted (s : State) : Bool :=
  s.down.isNone && (s.through.isNone || decide (s.altMark = .holdQueues))

/-- The grant of a head. -/
def grantQueues (s : State) : State :=
  match nextHead s, lowestFree s with
  | some c, some k =>
    match (s.cls c).queue with
    | a :: rest =>
      if queuesGranted s then
        testDrain (redecide
          (deliverAll (fun _ => forwardNotice s.gate.level (some c)) (takeHead c k a rest s)))
      else s
    | [] => s
  | _, _ => s

/-! ### The channel (R178) -/

/-- A beat on the downstream request channel. -/
inductive ForwardBeat where
  | header (h : DownHeader)
  | data (d : Data)
  deriving DecidableEq, Repr

/-- The beat of the forward that is offered: the header, then each data beat once it has reached the channel. None while
the next data beat is still to come (R175, R178). -/
def forwardBeat (f : Forward) : Option ForwardBeat :=
  match f.sent with
  | 0 => some (.header f.header)
  | j + 1 => f.data[j]?.map .data

/-- The beats of the forward: a READ is its header alone, a WRITE has its *length* data beats behind it (R175). -/
def forwardLength (h : DownHeader) : Nat :=
  match h.kind with
  | .read => 1
  | .write => beats h.len + 1

/-- The memory controller takes the beat that is offered. The last one frees the channel (R178). -/
def takeForward (s : State) : State :=
  match s.down with
  | some f =>
    if (forwardBeat f).isNone then s
    else if forwardLength f.header ≤ f.sent + 1 then { s with down := none }
    else { s with down := some { f with sent := f.sent + 1 } }
  | none => s

end Sys2Proof.Machine
end

