-- ==== Sys2Proof/Machine/Happening.lean ====
section
/-! DEFINITION. A happening of the device: its own change, the test of R99, and the choice of the downstream request
arbiter that it opens (R94). -/

namespace Sys2Proof.Machine

/-- The three conditions of R94: the downstream request channel is free, an in-flight entry is FREE, and a source
waits. -/
def choiceOpen (s : State) : Bool :=
  s.down.isNone && (lowestFree s).isSome && (s.through.isSome || (nextHead s).isSome)

/-- The grant of an open choice: of the through slot where it waits and the alternation gives it the grant, else of the
hold queues (R94, R95). -/
def grantNext (s : State) : State :=
  if s.through.isSome && throughGranted s then grantThrough s else grantQueues s

/-- What a happening that changes `s` to `u` leaves: where it opens a choice of the downstream request arbiter, the grant
is taken in the same happening (R94, R99). A choice that stood open before the happening is left to the rows of the
grants; no run from reset leaves one open (notes/assumptions/5.md). -/
def follow (s u : State) : State :=
  if choiceOpen u && !choiceOpen s then noteTableFull u (grantNext u) else u

/-- A change with the test of R99 and the choice of R94 after it. Where the change opens a choice of the upstream response
arbiter too, that choice is part of `f` and comes first: a DESIGN CHOICE (notes/assumptions/32.md). -/
def noted (f : State → State) (s : State) : State := follow s (noteTableFull s (f s))

/-- A happening of the device while RESET_N is high. While RESET_N is low nothing happens (R55, R58, R173, R182). -/
def happening (s : State) (f : State → State) : Host.Outcome State Fault Refusal :=
  if s.resetN = .high then .next (noted f s) else .next s

end Sys2Proof.Machine
end

