-- ==== Sys2Proof/Machine/Operands.lean ====
section
/-! DEFINITION. The value words of the management port (R165): codes, contract fields, class map entries, in-flight
entries, the items of the snapshot view and of the capture view. -/

namespace Sys2Proof.Machine

/-- A number in the low bits of the value word (R165). -/
def word (n : Nat) : Word32 := BitVec.ofNat 32 n

/-- A mark or flag read as one value (R165). -/
def boolWord (b : Bool) : Word32 := if b then 1 else 0

/-! ### Contract fields (R14, 02 section 2.3) -/

/-- The code of a period mode. -/
def modeCode : Mode → Nat
  | .timed => 0
  | .synced => 1
  | .counted => 2
  | .gated => 3

/-- The period mode of a code in range. -/
def modeOf : Nat → Mode
  | 0 => .timed
  | 1 => .synced
  | 2 => .counted
  | _ => .gated

/-- The code of an over-budget action. -/
def overBudgetCode : OverBudget → Nat
  | .hold => 0
  | .mark => 1
  | .reject => 2

/-- The over-budget action of a code in range. -/
def overBudgetOf : Nat → OverBudget
  | 0 => .hold
  | 1 => .mark
  | _ => .reject

/-- The code of an overflow action. -/
def overflowCode : Overflow → Nat
  | .stall => 0
  | .refuse => 1

/-- The overflow action of a code in range. -/
def overflowOf : Nat → Overflow
  | 0 => .stall
  | _ => .refuse

/-- The code of a line polarity. -/
def polarityCode : Polarity → Nat
  | .risingHigh => 0
  | .fallingLow => 1

/-- The line polarity of a code in range. -/
def polarityOf : Nat → Polarity
  | 0 => .risingHigh
  | _ => .fallingLow

/-- The code of a sync end. -/
def syncEndCode : SyncEnd → Nat
  | .length => 0
  | .edgeOrLength => 1

/-- The sync end of a code in range. -/
def syncEndOf : Nat → SyncEnd
  | 0 => .length
  | _ => .edgeOrLength

/-- A field of a contract, in the field order of 11 section 11.5. -/
def contractField (k : Contract) (i : Fin 14) : Nat :=
  match i with
  | 0 => modeCode k.mode
  | 1 => k.length
  | 2 => k.budget
  | 3 => k.carryCap
  | 4 => k.outLimit
  | 5 => k.holdLimit
  | 6 => overBudgetCode k.overBudget
  | 7 => overflowCode k.overflow
  | 8 => k.markedUrgency
  | 9 => k.responseLimit
  | 10 => k.captureThreshold
  | 11 => polarityCode k.polarity
  | 12 => syncEndCode k.syncEnd
  | 13 => k.reference.val

/-- The lowest and the highest value of a field (R14). -/
def fieldRange (i : Fin 14) : Nat × Nat :=
  match i with
  | 0 => (0, 3)
  | 1 => (1, 65535)
  | 2 => (0, 65535)
  | 3 => (0, 65535)
  | 4 => (1, 64)
  | 5 => (0, 48)
  | 6 => (0, 2)
  | 7 => (0, 1)
  | 8 => (0, 3)
  | 9 => (0, 65535)
  | 10 => (0, 16777215)
  | 11 => (0, 1)
  | 12 => (0, 1)
  | 13 => (0, 15)

/-- The value is in the field's range (R18). -/
def fieldInRange (i : Fin 14) (v : Nat) : Bool :=
  decide ((fieldRange i).1 ≤ v) && decide (v ≤ (fieldRange i).2)

/-- The contract with one field replaced by a value in range (R18). -/
def setContractField (k : Contract) (i : Fin 14) (v : Nat) : Contract :=
  match i with
  | 0 => { k with mode := modeOf v }
  | 1 => { k with length := v }
  | 2 => { k with budget := v }
  | 3 => { k with carryCap := v }
  | 4 => { k with outLimit := v }
  | 5 => { k with holdLimit := v }
  | 6 => { k with overBudget := overBudgetOf v }
  | 7 => { k with overflow := overflowOf v }
  | 8 => { k with markedUrgency := v }
  | 9 => { k with responseLimit := v }
  | 10 => { k with captureThreshold := v }
  | 11 => { k with polarity := polarityOf v }
  | 12 => { k with syncEnd := syncEndOf v }
  | 13 => { k with reference := Fin.ofNat 16 v }

/-! ### Class map entries (R165) -/

/-- The byte of a class map value. -/
def mapByte : MapValue → Byte
  | .cls n => BitVec.ofNat 8 n.val
  | .bypass => 0x80

/-- The class map value of a byte: 00h to 0Fh for a class, 80h for BYPASS, no other (R6). -/
def mapValueOf (b : Byte) : Option MapValue :=
  if h : b.toNat < 16 then some (.cls ⟨b.toNat, h⟩)
  else if b = 0x80 then some .bypass
  else none

/-- The value word of an entry: the read class in bits 7 to 0, the write class in bits 15 to 8. -/
def mapEntryWord (e : MapEntry) : Word32 := (0#16 ++ mapByte e.write) ++ mapByte e.read

/-- The entry that a value word carries; bits 31 to 16 are ignored (R165). -/
def mapEntryOf (v : Word32) : Option MapEntry :=
  match mapValueOf (v.extractLsb' 0 8), mapValueOf (v.extractLsb' 8 8) with
  | some r, some w => some ⟨r, w⟩
  | _, _ => none

/-! ### Settings -/

/-- The TICK-DIV setting of a value word (R34). -/
def tickDivOf (v : Word32) : Option TickDiv :=
  match v.toNat with
  | 1 => some .d1
  | 4 => some .d4
  | 16 => some .d16
  | 64 => some .d64
  | 256 => some .d256
  | _ => none

/-- The sample interval of a value word: 0 for OFF (R62). -/
def sampleIntervalOf (v : Word32) : Option SampleInterval :=
  match v.toNat with
  | 0 => some .off
  | 1 => some .i1
  | 4 => some .i4
  | 16 => some .i16
  | _ => none

/-- The code of a class state (R54). -/
def stateCode : ClassState → Nat
  | .stopped => 0
  | .armed => 1
  | .running => 2
  | .suspended => 3
  | .expired => 4

/-- A filtered level reads 0 for low and 1 for high (04, section 4.4). -/
def levelWord : Level → Word32
  | .low => 0
  | .high => 1

/-! ### In-flight entries (R124, R165) -/

/-- The state code of an entry that is not FREE. -/
def phaseCode : Phase → Nat
  | .pending => 1
  | .streaming => 2
  | .abandoned => 3

/-- The byte of a recorded class: 80h for no class. -/
def classByte : Option ClassId → Byte
  | some n => BitVec.ofNat 8 n.val
  | none => 0x80

/-- The value word of an in-flight entry: the state in bits 7 to 0, the class in bits 15 to 8, the
owed-timeout mark in bit 16, the late-consumed mark in bit 17. -/
def entryWord : Option Flight → Word32
  | none => (0#16 ++ (0x80 : Byte)) ++ (0x00 : Byte)
  | some f =>
    ((flagBit f.owed 16 ||| flagBit f.lateConsumed 17).extractLsb' 16 16 ++ classByte f.cls) ++
      BitVec.ofNat 8 (phaseCode f.phase)

/-! ### The snapshot view and the capture view (11, section 11.5) -/

/-- Item `i` of the snapshot view, 00h to 1Ah. -/
def snapshotItem (v : Snapshot) (i : Nat) : Word32 :=
  match i with
  | 0 => word v.cls.val
  | 1 => v.time
  | 2 => word v.stats.completions
  | 3 => word v.stats.errorCompletions
  | 4 => word v.stats.timeouts
  | 5 => word v.stats.lateResponses
  | 6 => word v.stats.unitsCharged
  | 7 => word v.stats.unitsMarked
  | 8 => word v.stats.requestsHeld
  | 9 => word v.stats.requestsRefused
  | 10 => word v.stats.periodsCompleted
  | 11 => word v.stats.overBudgetPeriods
  | 12 => word v.stats.supersededCommits
  | 13 => word v.stats.waitMin
  | 14 => word v.stats.waitMax
  | 15 => word (v.stats.waitSum / 2 ^ 32)
  | 16 => word v.stats.waitSum
  | 25 => word v.stats.holdMax
  | 26 => word v.stats.streamMax
  | n => word (v.stats.bins.toList.getD (n - 17) 0)

/-- The code of a completion status in a capture record (R165). -/
def statusCode : RespStatus → Nat
  | .okay => 0
  | .dataError => 1
  | .decodeError => 2
  | .timeout => 3
  | .refused => 3

/-- The code of a request kind (R165, R176). -/
def kindCode : Kind → Nat
  | .read => 0
  | .write => 1

/-- Item `i` of the capture view, 00h to 0Ch; none where the record has no such field (R141). -/
def captureItem (r : Capture) (i : Nat) : Option Word32 :=
  match i with
  | 0 => some (word r.cls.val)
  | 1 => some (word r.initiator.val)
  | 2 => some (r.tag.setWidth 32)
  | 3 => some (word (kindCode r.kind))
  | 4 => some ((r.address.extractLsb' 32 8).setWidth 32)
  | 5 => some (r.address.setWidth 32)
  | 6 => some (word (beats r.len))
  | 7 => some (word r.hold)
  | 8 => some (word r.wait)
  | 9 => r.stream.map word
  | 10 => some (word (statusCode r.status))
  | 11 => some (boolWord r.marked)
  | _ => some r.completion

/-! ### Objects -/

/-- The class that an object byte names (11, section 11.5). -/
def classObject (o : Byte) : Option ClassId := if h : o.toNat < 16 then some ⟨o.toNat, h⟩ else none

/-- The in-flight entry that an object byte names for ABANDON (R115). -/
def entryObject (o : Byte) : Option EntryIndex := if h : o.toNat < 64 then some ⟨o.toNat, h⟩ else none

end Sys2Proof.Machine
end

