-- ==== Sys2Proof/Machine/Port.lean ====
section
/-! DEFINITION. The management port (Chapter 11): the check byte, the frame layouts, the judging of a closed frame,
the forming of a response, and the command FRAME_OPEN. -/

namespace Sys2Proof.Machine

/-! ### Bits and bytes, most significant bit first (R162) -/

/-- The bits of a byte. -/
def byteBits (b : Byte) : List Bool := (List.range 8).map b.getMsbD

/-- The number that bits spell. -/
def bitsNat (bits : List Bool) : Nat := bits.foldl (fun n b => 2 * n + b.toNat) 0

/-- The byte that eight bits spell. -/
def bitsByte (bits : List Bool) : Byte := BitVec.ofNat 8 (bitsNat bits)

/-- The value word that 32 bits spell. -/
def bitsWord (bits : List Bool) : Word32 := BitVec.ofNat 32 (bitsNat bits)

/-- The four bytes of a value word, most significant byte first (R165). -/
def wordBytes (v : Word32) : List Byte :=
  [v.extractLsb' 24 8, v.extractLsb' 16 8, v.extractLsb' 8 8, v.extractLsb' 0 8]

/-! ### The check byte (R164) -/

/-- The check register after one more bit: shifted left, and combined with 07h if the dropped top bit differed
from the bit. -/
def checkStep (reg : Byte) (bit : Bool) : Byte :=
  if reg.msb = bit then reg <<< 1 else (reg <<< 1) ^^^ 0x07

/-- The check byte of bits: the register starts at 00h. -/
def checkByte (bits : List Bool) : Byte := bits.foldl checkStep 0

/-! ### Frames (R165) -/

/-- The bits of bytes 0 to 6 followed by their check byte. -/
def sealBytes (bytes : List Byte) : List Bool :=
  bytes.flatMap byteBits ++ byteBits (checkByte (bytes.flatMap byteBits))

/-- The bits of a command frame. -/
def commandBits (code object field : Byte) (value : Word32) : List Bool :=
  sealBytes (code :: object :: field :: wordBytes value)

/-- A status code (R167). -/
def statusByte : Status → Byte
  | .ok => 0x00
  | .empty => 0x01
  | .badCommand => 0x10
  | .badObject => 0x11
  | .badField => 0x12
  | .badValue => 0x13
  | .stateRefused => 0x14
  | .checkFailed => 0x20
  | .framing => 0x21

/-- The bits of a response frame. -/
def responseBits (r : Response) : List Bool :=
  sealBytes (statusByte r.status :: r.echo :: (wordBytes r.value ++ [r.flags]))

/-- What MDO carries in place `i` of a frame: the held response, and 0 after the sixty-fourth bit (R162). -/
def mdoBit (r : Response) (i : Nat) : Bool := (responseBits r).getD i false

/-- What the closing of a frame finds (R163). -/
inductive Verdict where
  /-- The number of bits is not 64; the first byte if at least 8 bits came, else 00h. -/
  | framing (echo : Byte)
  /-- 64 bits, and the check byte does not match; byte 0 as received. -/
  | check (echo : Byte)
  /-- 64 bits, and the check byte matches. -/
  | command (code object field : Byte) (value : Word32)
  deriving DecidableEq, Repr

/-- The judging of a frame by its number of bits and its check byte (R163). -/
def judge (bits : List Bool) : Verdict :=
  if bits.length ≠ 64 then .framing (if 8 ≤ bits.length then bitsByte (bits.take 8) else 0)
  else if bitsByte (bits.drop 56) ≠ checkByte (bits.take 56) then .check (bitsByte (bits.take 8))
  else
    .command (bitsByte (bits.take 8)) (bitsByte ((bits.drop 8).take 8))
      (bitsByte ((bits.drop 16).take 8)) (bitsWord ((bits.drop 24).take 32))

/-! ### Answers and responses (R166) -/

/-- The status and value of a command's answer. -/
structure Answer where
  status : Status
  value : Word32
  deriving DecidableEq, Repr

/-- OK with value 0. -/
def okay : Answer := ⟨.ok, 0⟩

/-- OK with a value. -/
def answer (v : Word32) : Answer := ⟨.ok, v⟩

/-- Any other status, with value 0 (R166). -/
def refusal (st : Status) : Answer := ⟨st, 0⟩

/-- The flags byte: bit 0 ALERT_N active, bit 1 quiesce state not NORMAL (R165). -/
def responseFlags (s : State) : Byte :=
  (if alertActive s then 1#8 else 0#8) ||| (if s.quiesce = .normal then 0#8 else 2#8)

/-- The port after a frame has closed: no frame open, MDO not driven, and the response held, with the flags byte of the
state `s`. -/
def closedPort (bits : List Bool) (echo : Byte) (a : Answer) (s : State) : Port :=
  ⟨.idle, bits, none, ⟨a.status, echo, a.value, responseFlags s⟩⟩

/-- A command's effect, with the test of R99 and the choice of R94 after it. -/
def noting (run : State → State × Answer) (s : State) : State × Answer :=
  (noted (fun s => (run s).1) s, (run s).2)

/-- A frame closes. `bits` are the bits received, `run` the command's effect and its answer (no effect and CHECK or
FRAMING for a frame that is not executed). The response is formed after the effect (R163, R166). `rest` is what follows
the response in the same happening: what RESET-REGULATOR causes after its own effects (R172), nothing elsewhere.
If MCS_N has been low since the release of RESET_N, its rise closes no frame (R173). -/
def closeFrame (bits : List Bool) (echo : Byte) (run : State → State × Answer) (rest : State → State) (s : State) :
    State :=
  if s.port.phase = .ignoring then { s with port := { s.port with phase := .idle } }
  else
    let out := run s
    { rest out.1 with port := closedPort bits echo out.2 out.1 }

/-- An executed command whose frame is the happening (R163), with what follows its response. A frame that has not been
opened by FRAME_OPEN is opened and closed as a whole (notes/assumptions/11.md). -/
def manageWhole (code object field : Byte) (value : Word32) (run : State → State × Answer) (rest : State → State)
    (s : State) : Host.Outcome State Fault Refusal :=
  if s.resetN = .high then
    .next (closeFrame (commandBits code object field value) code run rest s)
  else .next s

/-- An executed command, with the test of R99 and the choice of R94 after its effect. -/
def manage (code object field : Byte) (value : Word32) (run : State → State × Answer) (s : State) :
    Host.Outcome State Fault Refusal :=
  manageWhole code object field value (noting run) id s

/-! ### FRAME_OPEN (R162) -/

/-- A falling edge of MCS_N: the count of bits starts from none, and MDO is driven with the response held. A port that
is ignoring opens no frame, and MDO stays undriven until MCS_N has risen (R173; notes/assumptions/13.md). -/
def openPort (p : Port) : Port :=
  match p.phase with
  | .idle => { p with phase := .openFrame, received := [], mdo := some p.held }
  | _ => p

/-- FRAME_OPEN. -/
def execFrameOpen (s : State) : Host.Outcome State Fault Refusal :=
  happening s fun s => { s with port := openPort s.port }

end Sys2Proof.Machine
end

