-- ==== Sys2Proof/Machine/Settings.lean ====
section
/-! DEFINITION. NOP, READ-FIELD and WRITE-FIELD (R168 to R171): the catalogue of objects and fields, and the
writable items with the checks of their own rules, each with its command. -/

namespace Sys2Proof.Machine

/-! ### NOP (R168) -/

/-- NOP answers OK and has no other effect. -/
def runNop (s : State) : State × Answer := (s, okay)

/-- NOP. -/
def execNop (o f : Byte) (v : Word32) (s : State) : Host.Outcome State Fault Refusal :=
  manage 0x00 o f v runNop s

/-! ### READ-FIELD (R169, 11 section 11.5) -/

/-- A contract field read by its number (R20). -/
def readContract (k : Contract) (i : Nat) : Answer :=
  if h : i < 14 then answer (word (contractField k ⟨i, h⟩)) else refusal .badField

/-- An item of a class (objects 00h to 0Fh). -/
def readClass (k : ClassRec) (f : Nat) : Answer :=
  if f < 0x0E then readContract k.staging f
  else if 0x10 ≤ f ∧ f < 0x1E then
    match k.waiting with
    | some c => readContract c (f - 0x10)
    | none => refusal .empty
  else if 0x20 ≤ f ∧ f < 0x2E then readContract k.active (f - 0x20)
  else
    match f with
    | 0x30 => answer (boolWord k.oneShot)
    | 0x31 => answer (word (stateCode k.state))
    | 0x32 => answer (word k.elapsed)
    | 0x33 => answer (word k.remaining)
    | 0x34 => answer (word k.carryIn)
    | 0x35 => answer (boolWord k.overrun)
    | 0x36 => answer (word k.outstanding)
    | 0x37 => answer (word k.queue.length)
    | _ => refusal .badField

/-- An item of a line filter (objects 31h and 32h, R64). -/
def readFilter (fl : Filter) (f : Nat) : Answer :=
  match f with
  | 0 => answer (word (intervalTicks fl.interval))
  | 1 => answer (word fl.agreement)
  | 2 => answer (levelWord fl.level)
  | 3 => answer (word fl.run)
  | _ => refusal .badField

/-- An item of the snapshot view (object 34h, R137). -/
def readSnapshot (v : Option Snapshot) (f : Nat) : Answer :=
  if f < 0x1B then
    match v with
    | some x => answer (snapshotItem x f)
    | none => refusal .empty
  else refusal .badField

/-- An item of the capture view (object 35h, R141). -/
def readCaptureView (v : Option Capture) (f : Nat) : Answer :=
  match v with
  | some r =>
    match captureItem r f with
    | some x => answer x
    | none => refusal .empty
  | none => refusal .empty

/-- An item of object 35h (R141, R142). -/
def readCapture (s : State) (f : Nat) : Answer :=
  if f < 0x0D then readCaptureView s.captureView f
  else
    match f with
    | 0x10 => answer (word s.log.length)
    | 0x11 => answer (word s.lost)
    | _ => refusal .badField

/-- An item of object 36h (R148, R151). -/
def readEventUnit (s : State) (f : Nat) : Answer :=
  if h : f < 11 then answer (boolWord s.enables[f])
  else if f = 0x10 then answer (eventSummary s)
  else refusal .badField

/-- The item that READ-FIELD names (R169). -/
def readItem (s : State) (o f : Byte) : Answer :=
  match classObject o with
  | some n => readClass (s.cls n) f.toNat
  | none =>
    match o.toNat with
    | 0x20 =>
      if h : f.toNat < 64 then answer (mapEntryWord s.classMap[f.toNat]) else refusal .badField
    | 0x30 =>
      match f.toNat with
      | 0 => answer (word (tickClocks s.tickDiv))
      | 1 => answer s.timebase
      | _ => refusal .badField
    | 0x31 => readFilter s.frame f.toNat
    | 0x32 => readFilter s.gate f.toNat
    | 0x33 => if h : f.toNat < 7 then answer (word s.edges[f.toNat]) else refusal .badField
    | 0x34 => readSnapshot s.snapshot f.toNat
    | 0x35 => readCapture s f.toNat
    | 0x36 => readEventUnit s f.toNat
    | 0x37 =>
      if h : f.toNat < 64 then answer (entryWord s.entries[f.toNat]) else refusal .badField
    | 0x3F =>
      match f.toNat with
      | 0 => answer (word Config.partCode)
      | 1 => answer (word Config.revision)
      | _ => refusal .badField
    | _ => refusal .badObject

/-- READ-FIELD changes no state (R169). -/
def runReadField (o f : Byte) (s : State) : State × Answer := (s, readItem s o f)

/-- READ_FIELD. -/
def execReadField (o f : Byte) (v : Word32) (s : State) : Host.Outcome State Fault Refusal :=
  manage 0x01 o f v (runReadField o f) s

/-! ### The writable items -/

/-- Every class is STOPPED. -/
def allStopped (s : State) : Bool :=
  (List.finRange 16).all fun c => decide ((s.cls c).state = .stopped)

/-- A write of a staging field (R18). -/
def runStagingWrite (n : ClassId) (i : Fin 14) (v : Word32) (s : State) : State × Answer :=
  if fieldInRange i v.toNat then
    (s.updCls n fun k => { k with staging := setContractField k.staging i v.toNat }, okay)
  else (s, refusal .badValue)

/-- A stalled request is decided again when a class map write changes the class given to it (R8). -/
def redecideByMap (s : State) : State :=
  match s.up with
  | .presented r (some c) => if classify s r = .cls c then s else decidePresented s
  | _ => s

/-- A write of a class map entry (R6). -/
def runClassMapWrite (f : Byte) (v : Word32) (s : State) : State × Answer :=
  if h : f.toNat < 64 then
    match mapEntryOf v with
    | some e => (redecideByMap { s with classMap := s.classMap.set f.toNat e h }, okay)
    | none => (s, refusal .badValue)
  else (s, refusal .badField)

/-- A write of TICK-DIV (R34). -/
def runTickDivWrite (v : Word32) (s : State) : State × Answer :=
  match tickDivOf v with
  | some d =>
    if s.quiesce = .quiesced ∨ allStopped s = true then ({ s with tickDiv := d }, okay)
    else (s, refusal .stateRefused)
  | none => (s, refusal .badValue)

/-- The period mode that uses a line (R62). -/
def lineMode : Line → Mode
  | .frame => .synced
  | .gate => .gated

/-- Some class that uses the line is in a state other than STOPPED (R62). -/
def lineInUse (s : State) (line : Line) : Bool :=
  (List.finRange 16).any fun c =>
    decide ((s.cls c).active.mode = lineMode line) && !decide ((s.cls c).state = .stopped)

/-- The filter with the setting replaced, if the value word is in its range (R62). Under OFF no tick is counted, so a tick
that the filter still owes samples nothing there (R58, R62, R63). -/
def setFilterSetting (f : Filter) (setting : FilterSetting) (v : Word32) : Option Filter :=
  match setting with
  | .sampleInterval =>
    (sampleIntervalOf v).map fun i =>
      { f with interval := i, run := 0, count := 0, owed := f.owed && !decide (i = .off) }
  | .agreementCount =>
    if 2 ≤ v.toNat ∧ v.toNat ≤ 7 then some { f with agreement := v.toNat, run := 0, count := 0 }
    else none

/-- A write of a filter's setting (R62). -/
def runFilterWrite (line : Line) (setting : FilterSetting) (v : Word32) (s : State) : State × Answer :=
  match setFilterSetting (s.filter line) setting v with
  | some f =>
    if lineInUse s line then (s, refusal .stateRefused) else (s.setFilter line f, okay)
  | none => (s, refusal .badValue)

/-- The edges with edge `k` replaced by `v` are in ascending order at `k` (R134). -/
def edgeFits (edges : Vector Nat 7) (k : Fin 7) (v : Nat) : Bool :=
  (List.finRange 7).all fun i =>
    (!decide (i.val + 1 = k.val) || decide (edges[i] < v)) &&
      (!decide (k.val + 1 = i.val) || decide (v < edges[i]))

/-- A write of a histogram edge (R134). -/
def runEdgeWrite (f : Byte) (v : Word32) (s : State) : State × Answer :=
  if h : f.toNat < 7 then
    if v.toNat < 1 ∨ Config.intervalMax < v.toNat then (s, refusal .badValue)
    else if edgeFits s.edges ⟨f.toNat, h⟩ v.toNat = false then (s, refusal .badValue)
    else if s.quiesce = .quiesced ∨ allStopped s = true then
      ({ s with edges := s.edges.set f.toNat v.toNat h }, okay)
    else (s, refusal .stateRefused)
  else (s, refusal .badField)

/-- A write of the lost count (R142). -/
def runLostWrite (v : Word32) (s : State) : State × Answer :=
  if v = 0 then ({ s with lost := 0 }, okay) else (s, refusal .badValue)

/-- A write of an alert enable (R148). -/
def runEnableWrite (kind : Fin 11) (v : Word32) (s : State) : State × Answer :=
  if v = 0 then ({ s with enables := s.enables.set kind.val false kind.isLt }, okay)
  else if v = 1 then ({ s with enables := s.enables.set kind.val true kind.isLt }, okay)
  else (s, refusal .badValue)

/-! ### WRITE-FIELD (R170) -/

/-- A writable item of the catalogue (R170). Object 20h and object 33h carry their field byte on, because
their rules check it (R6, R134). -/
inductive Item where
  | staging (n : ClassId) (i : Fin 14)
  | mapEntry (f : Byte)
  | divider
  | filterSetting (line : Line) (setting : FilterSetting)
  | histogramEdge (f : Byte)
  | lostCount
  | enable (kind : Fin 11)
  deriving DecidableEq, Repr

/-- The writable item of a line filter by its field (R170). -/
def filterItem (line : Line) : Nat → Except Status Item
  | 0 => .ok (.filterSetting line .sampleInterval)
  | 1 => .ok (.filterSetting line .agreementCount)
  | _ => .error .badField

/-- The writable item that an object and a field name, or the refusal of R167. -/
def writableItem (o f : Byte) : Except Status Item :=
  match classObject o with
  | some n => if h : f.toNat < 14 then .ok (.staging n ⟨f.toNat, h⟩) else .error .badField
  | none =>
    match o.toNat with
    | 0x20 => .ok (.mapEntry f)
    | 0x30 => if f = 0 then .ok .divider else .error .badField
    | 0x31 => filterItem .frame f.toNat
    | 0x32 => filterItem .gate f.toNat
    | 0x33 => .ok (.histogramEdge f)
    | 0x34 => .error .badField
    | 0x35 => if f = 0x11 then .ok .lostCount else .error .badField
    | 0x36 => if h : f.toNat < 11 then .ok (.enable ⟨f.toNat, h⟩) else .error .badField
    | 0x37 => .error .badField
    | 0x3F => .error .badField
    | _ => .error .badObject

/-- The write of an item. -/
def runItemWrite (item : Item) (v : Word32) (s : State) : State × Answer :=
  match item with
  | .staging n i => runStagingWrite n i v s
  | .mapEntry f => runClassMapWrite f v s
  | .divider => runTickDivWrite v s
  | .filterSetting line setting => runFilterWrite line setting v s
  | .histogramEdge f => runEdgeWrite f v s
  | .lostCount => runLostWrite v s
  | .enable kind => runEnableWrite kind v s

/-- WRITE-FIELD. -/
def runWriteField (o f : Byte) (v : Word32) (s : State) : State × Answer :=
  match writableItem o f with
  | .ok item => runItemWrite item v s
  | .error st => (s, refusal st)

/-- WRITE_FIELD. -/
def execWriteField (o f : Byte) (v : Word32) (s : State) : Host.Outcome State Fault Refusal :=
  manage 0x02 o f v (runWriteField o f v) s

/-! ### The rows of the writable items -/

/-- The object byte of a class. -/
def classObjectByte (n : ClassId) : Byte := BitVec.ofNat 8 n.val

/-- The object byte of a line filter (04, section 4.4). -/
def lineObject : Line → Byte
  | .frame => 0x31
  | .gate => 0x32

/-- The field byte of a filter's setting (11, section 11.5). -/
def settingField : FilterSetting → Byte
  | .sampleInterval => 0x00
  | .agreementCount => 0x01

/-- STAGING_WRITE. -/
def execStagingWrite (n : ClassId) (i : Fin 14) (v : Word32) (s : State) :
    Host.Outcome State Fault Refusal :=
  manage 0x02 (classObjectByte n) (BitVec.ofNat 8 i.val) v (runStagingWrite n i v) s

/-- CLASS_MAP_WRITE. -/
def execClassMapWrite (f : Byte) (v : Word32) (s : State) : Host.Outcome State Fault Refusal :=
  manage 0x02 0x20 f v (runClassMapWrite f v) s

/-- TICK_DIV_WRITE. -/
def execTickDivWrite (v : Word32) (s : State) : Host.Outcome State Fault Refusal :=
  manage 0x02 0x30 0x00 v (runTickDivWrite v) s

/-- FILTER_SETTINGS_WRITE. -/
def execFilterSettingsWrite (line : Line) (setting : FilterSetting) (v : Word32) (s : State) :
    Host.Outcome State Fault Refusal :=
  manage 0x02 (lineObject line) (settingField setting) v (runFilterWrite line setting v) s

/-- HISTOGRAM_EDGE_WRITE. -/
def execHistogramEdgeWrite (f : Byte) (v : Word32) (s : State) : Host.Outcome State Fault Refusal :=
  manage 0x02 0x33 f v (runEdgeWrite f v) s

/-- LOST_COUNT_WRITE. -/
def execLostCountWrite (v : Word32) (s : State) : Host.Outcome State Fault Refusal :=
  manage 0x02 0x35 0x11 v (runLostWrite v) s

/-- ALERT_ENABLE_WRITE. -/
def execAlertEnableWrite (kind : Fin 11) (v : Word32) (s : State) :
    Host.Outcome State Fault Refusal :=
  manage 0x02 0x36 (BitVec.ofNat 8 kind.val) v (runEnableWrite kind v) s

end Sys2Proof.Machine
end

