-- ==== Sys2Proof/Machine/Commands.lean ====
section
/-! DEFINITION. The commands on classes, entries, views and flags: COMMIT, DISCARD-PENDING, SET-REPEAT, START, STOP,
ABANDON, SNAPSHOT, POP-CAPTURE and READ-EVENTS. -/

namespace Sys2Proof.Machine

/-- A command on the class that its object names; any other object is refused with BAD-OBJECT. -/
def onClass (o : Byte) (s : State) (run : ClassId → State × Answer) : State × Answer :=
  match classObject o with
  | some n => run n
  | none => (s, refusal .badObject)

/-! ### COMMIT (R21 to R23) -/

/-- The staging copy names its own class as the reference of a COUNTED contract (R21). -/
def selfReference (n : ClassId) (k : Contract) : Bool :=
  decide (k.mode = .counted) && decide (k.reference = n)

/-- The class after a COMMIT that passes validation, and whether the copy became active at once (R22,
R23). -/
def commitClass (k : ClassRec) : ClassRec × Bool :=
  match k.state with
  | .stopped => ({ k with active := k.staging }, true)
  | .expired => ({ k with active := k.staging }, true)
  | _ =>
    ({ k with
        waiting := some k.staging
        live :=
          if k.waiting.isSome then
            { k.live with supersededCommits := bump k.live.supersededCommits 1 }
          else k.live }, false)

/-- COMMIT on a class. -/
def commitAt (s : State) (n : ClassId) : State × Answer :=
  if selfReference n (s.cls n).staging then (s, refusal .badValue)
  else (atClass n commitClass s, okay)

/-- COMMIT. -/
def runCommit (o : Byte) (s : State) : State × Answer := onClass o s (commitAt s)

/-- COMMIT. -/
def execCommit (o f : Byte) (v : Word32) (s : State) : Host.Outcome State Fault Refusal :=
  manage 0x10 o f v (runCommit o) s

/-! ### DISCARD-PENDING (R24) -/

/-- DISCARD-PENDING on a class. -/
def discardAt (s : State) (n : ClassId) : State × Answer :=
  if (s.cls n).waiting.isSome then (s.updCls n fun k => { k with waiting := none }, okay)
  else (s, refusal .empty)

/-- DISCARD-PENDING. -/
def runDiscard (o : Byte) (s : State) : State × Answer := onClass o s (discardAt s)

/-- DISCARD_PENDING. -/
def execDiscardPending (o f : Byte) (v : Word32) (s : State) : Host.Outcome State Fault Refusal :=
  manage 0x11 o f v (runDiscard o) s

/-! ### SET-REPEAT (R29) -/

/-- SET-REPEAT on a class: 0 for CONTINUOUS, 1 for ONE-SHOT. -/
def setRepeatAt (v : Word32) (s : State) (n : ClassId) : State × Answer :=
  if v = 0 then (s.updCls n fun k => { k with oneShot := false }, okay)
  else if v = 1 then (s.updCls n fun k => { k with oneShot := true }, okay)
  else (s, refusal .badValue)

/-- SET-REPEAT. -/
def runSetRepeat (o : Byte) (v : Word32) (s : State) : State × Answer := onClass o s (setRepeatAt v s)

/-- SET_REPEAT. -/
def execSetRepeat (o f : Byte) (v : Word32) (s : State) : Host.Outcome State Fault Refusal :=
  manage 0x14 o f v (runSetRepeat o v) s

/-! ### START (R38) -/

/-- START on a class. -/
def startAt (s : State) (n : ClassId) : State × Answer :=
  if (s.cls n).state = .stopped then
    (atClass n (fun k => (startClass s.gate.level k, true)) s, okay)
  else (s, refusal .stateRefused)

/-- START. -/
def runStart (o : Byte) (s : State) : State × Answer := onClass o s (startAt s)

/-- START. -/
def execStart (o f : Byte) (v : Word32) (s : State) : Host.Outcome State Fault Refusal :=
  manage 0x12 o f v (runStart o) s

/-! ### STOP (R39) -/

/-- STOP on a class. A class already STOPPED is left as it is. -/
def stopAt (s : State) (n : ClassId) : State × Answer :=
  if (s.cls n).state = .stopped then (s, okay)
  else (atClass n (fun k => (stopClass k, true)) s, okay)

/-- STOP. -/
def runStop (o : Byte) (s : State) : State × Answer := onClass o s (stopAt s)

/-- STOP. -/
def execStop (o f : Byte) (v : Word32) (s : State) : Host.Outcome State Fault Refusal :=
  manage 0x13 o f v (runStop o) s

/-! ### ABANDON (R115) -/

/-- ABANDON on an entry. -/
def abandonAt (s : State) (k : EntryIndex) : State × Answer :=
  match s.entry k with
  | some f =>
    if f.phase = .pending then (abandonEntry k f s, okay) else (s, refusal .stateRefused)
  | none => (s, refusal .stateRefused)

/-- ABANDON. -/
def runAbandon (o : Byte) (s : State) : State × Answer :=
  match entryObject o with
  | some k => abandonAt s k
  | none => (s, refusal .badObject)

/-- ABANDON. -/
def execAbandon (o f : Byte) (v : Word32) (s : State) : Host.Outcome State Fault Refusal :=
  manage 0x30 o f v (runAbandon o) s

/-! ### SNAPSHOT (R136) -/

/-- The record of a class is copied into the snapshot view. -/
def takeSnapshot (n : ClassId) (s : State) : State :=
  { s with snapshot := some ⟨n, s.timebase, (s.cls n).live⟩ }

/-- SNAPSHOT on a class: value 1 clears the live record after the copy. -/
def snapshotAt (v : Word32) (s : State) (n : ClassId) : State × Answer :=
  if v = 0 then (takeSnapshot n s, answer s.timebase)
  else if v = 1 then
    ((takeSnapshot n s).updCls n fun k => { k with live := clearStats }, answer s.timebase)
  else (s, refusal .badValue)

/-- SNAPSHOT. -/
def runSnapshot (o : Byte) (v : Word32) (s : State) : State × Answer := onClass o s (snapshotAt v s)

/-- SNAPSHOT. -/
def execSnapshot (o f : Byte) (v : Word32) (s : State) : Host.Outcome State Fault Refusal :=
  manage 0x20 o f v (runSnapshot o v) s

/-! ### POP-CAPTURE (R141) -/

/-- POP-CAPTURE. -/
def runPopCapture (o : Byte) (s : State) : State × Answer :=
  if o = 0x35 then
    match s.log with
    | r :: rest => ({ s with log := rest, captureView := some r }, answer (word rest.length))
    | [] => (s, refusal .empty)
  else (s, refusal .badObject)

/-- POP_CAPTURE. -/
def execPopCapture (o f : Byte) (v : Word32) (s : State) : Host.Outcome State Fault Refusal :=
  manage 0x21 o f v (runPopCapture o) s

/-! ### READ-EVENTS (R149) -/

/-- READ-EVENTS: the flags of the set are returned, and exactly these are cleared. -/
def runReadEvents (o : Byte) (s : State) : State × Answer :=
  match classObject o with
  | some n =>
    (s.updCls n fun k => { k with flags := noClassFlags }, answer (classFlagWord (s.cls n).flags))
  | none =>
    if o = 0x36 then ({ s with gflags := noGlobalFlags }, answer (globalFlagWord s.gflags))
    else (s, refusal .badObject)

/-- READ_EVENTS. -/
def execReadEvents (o f : Byte) (v : Word32) (s : State) : Host.Outcome State Fault Refusal :=
  manage 0x22 o f v (runReadEvents o) s

end Sys2Proof.Machine
end

