-- ==== Sys2Proof/Machine/Lines.lean ====
section
/-! DEFINITION. The line filters (Chapter 4): samples, the agreement run, the delivery of edges to the classes, and the
command FILTER_EDGE. -/

namespace Sys2Proof.Machine

/-- The filter takes a sample of its raw line: the filter as it leaves it, and the new filtered level if
the sample is an edge (R59). -/
def takeSample (f : Filter) : Filter × Option Level :=
  if f.raw = f.level then ({ f with run := 0 }, none)
  else if f.interval = .off then ({ f with level := f.raw }, some f.raw)
  else if f.run + 1 = f.agreement then ({ f with level := f.raw, run := 0 }, some f.raw)
  else ({ f with run := f.run + 1 }, none)

/-- A filter whose interval is not OFF counts a tick, and samples at the one that completes the interval
(R58). -/
def countTick (f : Filter) : Filter × Option Level :=
  if f.count + 1 = intervalTicks f.interval then takeSample { f with count := 0 }
  else ({ f with count := f.count + 1 }, none)

/-- A tick is delivered to the filter while its raw line has the given level. A tick whose sample is an
edge is taken by FILTER_EDGE (notes/assumptions/4.md). Under OFF the filter does not count ticks
(R58). -/
def filterTick (raw : Level) (f : Filter) : Filter :=
  let seen := { f with raw := raw }
  if f.interval = .off then seen
  else if (countTick seen).2.isSome then { seen with owed := true }
  else (countTick seen).1

/-- The filter takes a sample that is due: at any bus clock under OFF, and for the tick it owes under the
other intervals (R58, R63). -/
def takeDueSample (raw : Level) (f : Filter) : Filter × Option Level :=
  let seen := { f with raw := raw }
  if f.interval = .off then takeSample { seen with owed := false }
  else if f.owed then countTick { seen with owed := false }
  else (seen, none)

/-! ### The copies of an edge (R60, R61) -/

/-- An edge of the line has been taken at the filter: each receptive class owes its copy, which it takes as a happening
of its own (notes/assumptions/25.md). -/
def oweCopies (line : Line) (s : State) : State := s.mapCls fun _ => oweCopy line

/-- Class `n` takes the copy that it owes. -/
def classTakesCopy (line : Line) (n : ClassId) (s : State) : State :=
  atClass n (takeOwedCopy line s.gate.level (s.filter line).level) s

/-- The classes take the copies that they owe, each as a happening of its own, in the order of the list. -/
def takeCopies (line : Line) (l : List ClassId) (s : State) : State :=
  l.foldl (fun t n => noted (classTakesCopy line n) t) s

/-- Every class takes the copy that it still owes. -/
def settleCopies (line : Line) (s : State) : State := takeCopies line (List.finRange 16) s

/-! ### Samples -/

/-- The filter of the line takes a sample that is due, and hands an edge on to the receptive classes (R59). -/
def sampleLine (line : Line) (raw : Level) (s : State) : State :=
  let out := takeDueSample raw (s.filter line)
  let t := s.setFilter line out.1
  if out.2.isSome then oweCopies line t else t

/-- A sample as FILTER_EDGE takes it. Copies of the edge before are taken before a new edge: none is lost
(notes/assumptions/25.md). -/
def sampleInTurn (line : Line) (raw : Level) (s : State) : State :=
  sampleLine line raw (if (takeDueSample raw (s.filter line)).2.isSome then settleCopies line s else s)

/-- A sample, where one is given, and then the copies that the classes of `now` take (R59 to R61). -/
def takeEdge (line : Line) (taking : EdgeTaking) (s : State) : State :=
  takeCopies line taking.now (match taking.sample with
    | some raw => sampleInTurn line raw s
    | none => s)

/-- FILTER_EDGE. -/
def execFilterEdge (line : Line) (taking : EdgeTaking) (s : State) : Host.Outcome State Fault Refusal :=
  if s.resetN = .high then .next (takeEdge line taking s) else .next s

end Sys2Proof.Machine
end

