-- ==== Sys2Proof/Machine/Quiesce.lean ====
section
/-! DEFINITION. Quiesce control (Chapter 10): QUIESCE, RESUME and QUIESCED. -/

namespace Sys2Proof.Machine

/-- The device begins to quiesce with the flush option, and tests the drain condition (R155). -/
def beginQuiesce (flush : Bool) (s : State) : State :=
  testDrain { s with quiesce := .quiescing, flush := flush }

/-- QUIESCE: the flush option is 0 or 1, and the state is NORMAL (R155). -/
def runQuiesce (v : Word32) (s : State) : State × Answer :=
  if v = 0 ∨ v = 1 then
    if s.quiesce = .normal then (beginQuiesce (decide (v = 1)) s, okay)
    else (s, refusal .stateRefused)
  else (s, refusal .badValue)

/-- QUIESCE. -/
def execQuiesce (o f : Byte) (v : Word32) (s : State) : Host.Outcome State Fault Refusal :=
  manage 0x31 o f v (runQuiesce v) s

/-- RESUME: the presented request, stalled or not, is decided in the same happening (R160). -/
def runResume (s : State) : State × Answer :=
  if s.quiesce = .normal then (s, refusal .stateRefused)
  else (decidePresented { s with quiesce := .normal, flush := false }, okay)

/-- RESUME. -/
def execResume (o f : Byte) (v : Word32) (s : State) : Host.Outcome State Fault Refusal :=
  manage 0x32 o f v runResume s

/-- QUIESCED: the drain condition is tested (R157). Every happening that can complete the drain tests it
itself, so the device has become QUIESCED before this command (notes/assumptions/7.md). -/
def execQuiesced (s : State) : Host.Outcome State Fault Refusal :=
  happening s testDrain

end Sys2Proof.Machine
end

