-- ==== Sys2Proof/Machine/Reset.lean ====
section
/-! DEFINITION. RESET-REGULATOR (R172), pin reset (R182) and the release of RESET_N (R55). -/

namespace Sys2Proof.Machine

/-! ### RESET-REGULATOR -/

/-- A class after RESET-REGULATOR: its traffic is kept, and all else of it is as after pin reset (R32, R56, R86,
R104, R144, R153). -/
def regulatorResetClass (k : ClassRec) : ClassRec :=
  { resetClass with tickOwed := k.tickOwed, outstanding := k.outstanding, queue := k.queue }

/-- The effects of RESET-REGULATOR at the blocks, before any new decision (R172). -/
def regulatorReset (s : State) : State :=
  { s.mapCls fun _ k => regulatorResetClass k with
    snapshot := none
    log := []
    captureView := none
    lost := 0
    gflags := noGlobalFlags
    quiesce := .normal
    flush := if s.quiesce = .normal then s.flush else false }

/-- The decision that RESET-REGULATOR causes: a stalled request is decided again (R86). When the command ends a quiesce,
the presented request is decided, stalled or not (R84, R161). -/
def decideAtReset (ended : Bool) (s : State) : State := if ended then decidePresented s else redecide s

/-- RESET-REGULATOR's own effects and its answer, whose flags byte shows ALERT_N released and NORMAL (R172). -/
def runResetRegulator (s : State) : State × Answer := (regulatorReset s, okay)

/-- What RESET-REGULATOR taken in the state `s` causes after its own effects have left `reset`: the decision, the test of
R99 over the whole happening, so that a head which STOPPED makes ready counts (R92), and the choice of R94. It all comes
after the clearing of the flags (R153; DEDUCED, notes/assumptions/10.md). -/
def afterReset (s reset : State) : State :=
  noted (fun s => decideAtReset (decide (s.quiesce ≠ .normal)) reset) s

/-- RESET_REGULATOR. -/
def execResetRegulator (o f : Byte) (v : Word32) (s : State) : Host.Outcome State Fault Refusal :=
  manageWhole 0x3F o f v runResetRegulator (afterReset s) s

/-! ### Pin reset -/

/-- PIN_RESET: RESET_N falls, and every block takes its pin reset value. -/
def execPinReset (s : State) : Host.Outcome State Fault Refusal :=
  .next { pinResetState with pending := s.pending }

/-- RESET_N rises: the filters take their first sample, and the port may open frames, once MCS_N is high (R55,
R65, R173). -/
def releaseReset (frame gate : Level) (mcsLow : Bool) (s : State) : State :=
  sampleLine .gate gate (sampleLine .frame frame
    { s with
      resetN := .high
      port := { s.port with phase := if mcsLow then .ignoring else .idle } })

/-- RESET_N_RELEASE. -/
def execResetNRelease (frame gate : Level) (mcsLow : Bool) (s : State) :
    Host.Outcome State Fault Refusal :=
  .next (if s.resetN = .low then noted (releaseReset frame gate mcsLow) s else s)

end Sys2Proof.Machine
end

