-- ==== Sys2Proof/Machine/FrameClose.lean ====
section
/-! DEFINITION. FRAME_CLOSE (R163): the closing of a frame with any bits. A frame that is not executed leaves FRAMING or
CHECK; a good frame is executed, with the effect that the row of its command has. -/

namespace Sys2Proof.Machine

/-- The effect of the command that a good frame carries, RESET-REGULATOR apart, by its code (R167). An unknown code is
refused with BAD-COMMAND. -/
def runCode (code object field : Byte) (value : Word32) : State → State × Answer :=
  match code.toNat with
  | 0x00 => runNop
  | 0x01 => runReadField object field
  | 0x02 => runWriteField object field value
  | 0x10 => runCommit object
  | 0x11 => runDiscard object
  | 0x12 => runStart object
  | 0x13 => runStop object
  | 0x14 => runSetRepeat object value
  | 0x20 => runSnapshot object value
  | 0x21 => runPopCapture object
  | 0x22 => runReadEvents object
  | 0x30 => runAbandon object
  | 0x31 => runQuiesce value
  | 0x32 => runResume
  | _ => fun s => (s, refusal .badCommand)

/-- The effect of a good frame up to its response. -/
def runFrame (code object field : Byte) (value : Word32) : State → State × Answer :=
  if code = 0x3F then runResetRegulator else noting (runCode code object field value)

/-- What follows the response of a good frame taken in the state `s` (R172). -/
def afterFrame (code : Byte) (s : State) : State → State := if code = 0x3F then afterReset s else id

/-- FRAME_CLOSE. -/
def execFrameClose (bits : List Bool) (s : State) : Host.Outcome State Fault Refusal :=
  if s.resetN = .high then
    match judge bits with
    | .framing echo => .next (closeFrame bits echo (fun s => (s, refusal .framing)) id s)
    | .check echo => .next (closeFrame bits echo (fun s => (s, refusal .checkFailed)) id s)
    | .command code o f v => .next (closeFrame bits code (runFrame code o f v) (afterFrame code s) s)
  else .next s

end Sys2Proof.Machine
end

