-- ==== Sys2Proof/Machine/Pins.lean ====
section
/-! DEFINITION. What the device shows outside, as functions of the state: the channels' signals (Chapter 12), ALERT_N
and the interval of the tick generator. -/

namespace Sys2Proof.Machine

/-- The level of ALERT_N, with the pull-up outside the device (R147). -/
def alertN (s : State) : Level := if alertActive s then .low else .high

/-- READY of the upstream request channel for data beats: high from the header of an accepted WRITE to its last
data beat (R177). -/
def upRequestReady (s : State) : Bool :=
  decide (s.resetN = .high) &&
    match s.up with
    | .taking _ _ => true
    | _ => false

/-- The status of a generated response (R121). -/
def generatedStatus : GenSource → RespStatus
  | .refusedSlot => .refused
  | .owedTimeout _ => .timeout

/-- The 3-bit status of an upstream beat (R176). -/
def upStatusCode : RespStatus → BitVec 3
  | .okay => 0
  | .dataError => 1
  | .decodeError => 2
  | .refused => 3
  | .timeout => 4

/-- The signals of a beat on the upstream response channel (R176). -/
structure UpPins where
  tag : BitVec 8
  status : BitVec 3
  data : Data
  last : Bool
  deriving DecidableEq, Repr

/-- The signals of a beat. -/
def upPins (b : UpBeat) : UpPins := ⟨b.tag, upStatusCode b.status, b.data, b.last⟩

/-- The beat offered on the upstream response channel; VALID is high exactly when there is one (R110, R121, R180). -/
def upResponseOffer (s : State) : Option UpPins :=
  if s.resetN = .high then
    match s.upResp with
    | .free => none
    | .live _ _ held _ _ => held.map upPins
    | .generated source tag n => some (upPins ⟨tag, generatedStatus source, 0, decide (n ≤ 1)⟩)
  else none

/-- The signals of a beat on the downstream request channel (R176): the header fields on a header beat, the data field on
a data beat. -/
inductive DownPins where
  | header (kind : BitVec 1) (address : Address) (len : BitVec 4) (initiator tag : BitVec 6) (urgency : BitVec 2)
  | data (d : Data)
  deriving DecidableEq, Repr

/-- The 1-bit kind (R176). -/
def kindBit : Kind → BitVec 1
  | .read => 0
  | .write => 1

/-- The signals of a beat of a forward. -/
def downPins : ForwardBeat → DownPins
  | .header h =>
    .header (kindBit h.kind) h.address h.len (BitVec.ofNat 6 h.initiator.val) (BitVec.ofNat 6 h.tag.val) h.urgency
  | .data d => .data d

/-- The beat offered on the downstream request channel; VALID is high exactly when there is one (R175, R178). -/
def downRequestOffer (s : State) : Option DownPins :=
  if s.resetN = .high then (s.down.bind forwardBeat).map downPins else none

/-- The bus clocks of the tick interval in progress (R33, R34). -/
def intervalClocks (s : State) : Nat := tickClocks s.intervalDiv

/-- The bit that MDO carries in place `i` of the open frame; none while MDO is not driven (R162, R173). -/
def mdoPin (s : State) (i : Nat) : Option Bool :=
  if s.resetN = .high then s.port.mdo.map fun r => mdoBit r i else none

end Sys2Proof.Machine
end

