-- ==== Sys2Proof/Machine/Response.lean ====
section
/-! DEFINITION. The upstream response arbiter and the passing of responses (Chapters 7 and 12): the commands
UPSTREAM_RESPONSE_CHOICE, LIVE_RESPONSE_BEAT, GENERATED_RESPONSE_BEAT and
LAST_BEAT_TAKEN_UPSTREAM. -/

namespace Sys2Proof.Machine

/-- The status of a downstream beat; value 3 is taken as DATA-ERROR (R179). -/
def liveStatus (code : BitVec 2) : RespStatus :=
  match code.toNat with
  | 0 => .okay
  | 1 => .dataError
  | 2 => .decodeError
  | _ => .dataError

/-! ### UPSTREAM_RESPONSE_CHOICE (R120) -/

/-- The beat that the arbiter holds for the upstream partner while it passes the response of entry `k` (R110). -/
def holdBeat (k : EntryIndex) (beat : UpBeat) (status : RespStatus) (ended : Bool) (s : State) : State :=
  { s with upResp := .live k beat.tag (some beat) status ended }

/-- The first beat of a live response is taken and passed upstream (R110, R111). -/
def passFirst (b : DownBeat) (f : Flight) (s : State) : State :=
  let status := liveStatus b.status
  let seen := { f with firstBeat := some s.timebase }
  match f.kind with
  | .write => completeEntry b.tag seen status (holdBeat b.tag ⟨f.tag, status, 0, true⟩ status true s)
  | .read =>
    let held := holdBeat b.tag ⟨f.tag, status, b.data, b.last⟩ status b.last s
    if b.last then completeEntry b.tag seen status held
    else held.setEntry b.tag (some { seen with phase := .streaming })

/-- The free arbiter takes the live response whose first beat waits downstream (R109, R120). -/
def chooseLive (s : State) : State :=
  if s.upResp = .free then
    match s.standing with
    | some b =>
      match s.entry b.tag with
      | some f => if f.phase = .pending then passFirst b f { s with standing := none } else s
      | none => s
    | none => s
  else s

/-- The choice of the arbiter, in the order of R120. A busy arbiter makes none. -/
def arbitrate (s : State) : State := chooseLive (chooseGenerated s)

/-- A first beat is presented downstream. That of a live response waits there until it is taken (R109); one of a late or
stray response is taken by a command of its own. -/
def presentFirst (presented : Option DownBeat) (s : State) : State :=
  match presented with
  | some b =>
    match s.entry b.tag with
    | some f => if downstreamOpen s = true ∧ f.phase = .pending then { s with standing := some b } else s
    | none => s
  | none => s

/-- The first beat that comes to be presented names a STREAMING entry, which R109 says does not arise. -/
def namesStreaming (presented : Option DownBeat) (s : State) : Bool :=
  downstreamOpen s &&
    match presented with
    | some b =>
      match s.entry b.tag with
      | some f => decide (f.phase = .streaming)
      | none => false
    | none => false

/-- UPSTREAM_RESPONSE_CHOICE. -/
def execUpstreamResponseChoice (presented : Option DownBeat) (s : State) :
    Host.Outcome State Fault Refusal :=
  if s.resetN = .high ∧ namesStreaming presented s = true then .fault .firstBeatNamesStreaming
  else happening s fun s => arbitrate (presentFirst presented s)

/-! ### LIVE_RESPONSE_BEAT (R110, R112) -/

/-- The completion status after one more beat: the first status other than OKAY (R112). -/
def worstStatus (sofar beat : RespStatus) : RespStatus :=
  match sofar with
  | .okay => beat
  | other => other

/-- The next beat of the live response is taken and held. Where the beat before it is still held, the upstream partner
takes that one in the same happening (R110). -/
def passNext (b : DownBeat) (s : State) : State :=
  match s.upResp with
  | .live k tag _ status false =>
    let status' := worstStatus status (liveStatus b.status)
    let t := holdBeat k ⟨tag, liveStatus b.status, b.data, b.last⟩ status' b.last s
    match s.entry k with
    | some f =>
      if b.last = true ∧ f.phase = .streaming then completeEntry k f status' t else t
    | none => t
  | _ => s

/-- LIVE_RESPONSE_BEAT. -/
def execLiveResponseBeat (b : DownBeat) (s : State) : Host.Outcome State Fault Refusal :=
  happening s (passNext b)

/-! ### GENERATED_RESPONSE_BEAT (R121, R122) -/

/-- The TIMEOUT response of entry `k` has been sent (R119, R122). -/
def clearOwed (k : EntryIndex) (s : State) : State :=
  match s.entry k with
  | some f =>
    if f.phase = .abandoned then
      s.setEntry k (if f.lateConsumed then none else some { f with owed := false })
    else s
  | none => s

/-- The end of a generated response finishes its source, and the arbiter, free again, chooses in the same happening
(R120, R122), before a grant that a freed entry opens: a DESIGN CHOICE (notes/assumptions/32.md). -/
def endGenerated (source : GenSource) (s : State) : State :=
  match source with
  | .refusedSlot => arbitrate (testDrain { s with refused := none, upResp := .free })
  | .owedTimeout k => arbitrate (testDrain (clearOwed k { s with upResp := .free }))

/-- The upstream partner takes a beat of a generated response. -/
def takeGenerated (s : State) : State :=
  match s.upResp with
  | .generated source tag n =>
    if n ≤ 1 then endGenerated source s
    else { s with upResp := .generated source tag (n - 1) }
  | _ => s

/-- GENERATED_RESPONSE_BEAT. -/
def execGeneratedResponseBeat (s : State) : Host.Outcome State Fault Refusal :=
  happening s takeGenerated

/-! ### LAST_BEAT_TAKEN_UPSTREAM (R120) -/

/-- The upstream partner takes the held beat of a live response. After the last beat the arbiter is free and chooses in
the same happening (R120); after another, nothing is offered until the next one comes (R180). -/
def takeHeld (s : State) : State :=
  match s.upResp with
  | .live _ _ (some _) _ true => arbitrate { s with upResp := .free }
  | .live k tag (some _) status false => { s with upResp := .live k tag none status false }
  | _ => s

/-- LAST_BEAT_TAKEN_UPSTREAM. -/
def execLastBeatTakenUpstream (s : State) : Host.Outcome State Fault Refusal :=
  happening s takeHeld

end Sys2Proof.Machine
end

