-- ==== Sys2Proof/Machine/Ticks.lean ====
section
/-! DEFINITION. The tick generator (Chapter 3) and the commands TICK and PERIOD_BOUNDARY. -/

namespace Sys2Proof.Machine

/-- Class `n` takes the tick that it owes. -/
def classTakesTick (n : ClassId) (s : State) : State :=
  atClass n (takeOwedTick s.gate.level) s

/-- PERIOD_BOUNDARY. -/
def execPeriodBoundary (n : ClassId) (s : State) : Host.Outcome State Fault Refusal :=
  happening s (classTakesTick n)

/-! ### The happenings still due from the tick before -/

/-- Every class takes the tick that it still owes. -/
def settleClasses (s : State) : State :=
  (List.finRange 16).foldl (fun t n => noted (classTakesTick n) t) s

/-- The filter of the line takes the tick that it still owes, with the level its raw line has, and every class takes its
copy of an edge. -/
def settleLine (line : Line) (s : State) : State :=
  if (s.filter line).owed then takeEdge line ⟨some (s.filter line).raw, List.finRange 16⟩ s else s

/-- Every entry takes the tick that is its deadline. -/
def settleDeadlines (s : State) : State :=
  (List.finRange 64).foldl (fun t k => noted (reachDeadline k) t) s

/-- Every copy of an edge and every happening of the last tick that has not been taken is taken: none is lost to the next
tick (notes/assumptions/4.md and 25.md). -/
def settleTick (s : State) : State :=
  settleDeadlines (settleLine .gate (settleLine .frame (settleClasses
    (settleCopies .gate (settleCopies .frame s)))))

/-! ### TICK (R33) -/

/-- The timebase advances, the next interval is counted under the TICK-DIV setting (R34), and the tick is
delivered to the classes and to the filters. -/
def tickOnce (frame gate : Level) (later : List ClassId) (s : State) : State :=
  { s.mapCls fun c k => tickDelivered (later.contains c) k with
    timebase := s.timebase + 1
    intervalDiv := s.tickDiv
    frame := filterTick frame s.frame
    gate := filterTick gate s.gate }

/-- TICK. -/
def execTick (frame gate : Level) (later : List ClassId) (s : State) :
    Host.Outcome State Fault Refusal :=
  happening s fun s => tickOnce frame gate later (settleTick s)

end Sys2Proof.Machine
end

