-- ==== Sys2Proof/Machine/Traffic.lean ====
section
/-! DEFINITION. The commands of the traffic: ADMISSION_DECISION, UPSTREAM_WRITE_DATA_BEAT, GRANT_THROUGH_SLOT, GRANT_HEAD,
DOWNSTREAM_REQUEST_TAKEN, DEADLINE, LATE_RESPONSE and STRAY_RESPONSE. -/

namespace Sys2Proof.Machine

/-! ### Upstream requests -/

/-- ADMISSION_DECISION. -/
def execAdmissionDecision (offered : Option Request) (s : State) :
    Host.Outcome State Fault Refusal :=
  happening s fun s => decideUndecided (offerHeader offered s)

/-- UPSTREAM_WRITE_DATA_BEAT. -/
def execUpstreamWriteDataBeat (d : Data) (s : State) : Host.Outcome State Fault Refusal :=
  happening s (takeDataBeat d)

/-! ### Grants and the downstream request channel -/

/-- GRANT_THROUGH_SLOT: the grant of a choice that stands open (R78, R94). -/
def execGrantThroughSlot (s : State) : Host.Outcome State Fault Refusal :=
  happening s grantThrough

/-- GRANT_HEAD: the grant of a choice that stands open (R94, R97). -/
def execGrantHead (s : State) : Host.Outcome State Fault Refusal :=
  happening s grantQueues

/-- DOWNSTREAM_REQUEST_TAKEN. -/
def execDownstreamRequestTaken (s : State) : Host.Outcome State Fault Refusal :=
  happening s takeForward

/-! ### Deadlines and discarded responses -/

/-- DEADLINE. -/
def execDeadline (k : EntryIndex) (s : State) : Host.Outcome State Fault Refusal :=
  happening s (reachDeadline k)

/-- LATE_RESPONSE. -/
def execLateResponse (b : DownBeat) (s : State) : Host.Outcome State Fault Refusal :=
  happening s (lateBeat b)

/-- STRAY_RESPONSE. -/
def execStrayResponse (b : DownBeat) (s : State) : Host.Outcome State Fault Refusal :=
  happening s (strayBeat b)

end Sys2Proof.Machine
end

