-- ==== Sys2Proof/Machine/Dispatch.lean ====
section
/-! DEFINITION. What each command does to the state but for the queue: one arm per row of spec/opcode_table.json. -/

namespace Sys2Proof.Machine

def exec (i : Instr) (s : State) : Host.Outcome State Fault Refusal :=
  match i with
  | .tick frame gate later => Sys2Proof.Machine.execTick frame gate later s
  | .periodBoundary n => Sys2Proof.Machine.execPeriodBoundary n s
  | .filterEdge line taking => Sys2Proof.Machine.execFilterEdge line taking s
  | .admissionDecision offered => Sys2Proof.Machine.execAdmissionDecision offered s
  | .grantThroughSlot => Sys2Proof.Machine.execGrantThroughSlot s
  | .grantHead => Sys2Proof.Machine.execGrantHead s
  | .downstreamRequestTaken => Sys2Proof.Machine.execDownstreamRequestTaken s
  | .upstreamResponseChoice presented => Sys2Proof.Machine.execUpstreamResponseChoice presented s
  | .liveResponseBeat beat => Sys2Proof.Machine.execLiveResponseBeat beat s
  | .deadline k => Sys2Proof.Machine.execDeadline k s
  | .lateResponse beat => Sys2Proof.Machine.execLateResponse beat s
  | .strayResponse beat => Sys2Proof.Machine.execStrayResponse beat s
  | .generatedResponseBeat => Sys2Proof.Machine.execGeneratedResponseBeat s
  | .quiesced => Sys2Proof.Machine.execQuiesced s
  | .frameClose bits => Sys2Proof.Machine.execFrameClose bits s
  | .nop object field value => Sys2Proof.Machine.execNop object field value s
  | .readField object field value => Sys2Proof.Machine.execReadField object field value s
  | .writeField object field value => Sys2Proof.Machine.execWriteField object field value s
  | .stagingWrite n field value => Sys2Proof.Machine.execStagingWrite n field value s
  | .classMapWrite field value => Sys2Proof.Machine.execClassMapWrite field value s
  | .tickDivWrite value => Sys2Proof.Machine.execTickDivWrite value s
  | .filterSettingsWrite line setting value => Sys2Proof.Machine.execFilterSettingsWrite line setting value s
  | .histogramEdgeWrite field value => Sys2Proof.Machine.execHistogramEdgeWrite field value s
  | .lostCountWrite value => Sys2Proof.Machine.execLostCountWrite value s
  | .alertEnableWrite kind value => Sys2Proof.Machine.execAlertEnableWrite kind value s
  | .commit object field value => Sys2Proof.Machine.execCommit object field value s
  | .discardPending object field value => Sys2Proof.Machine.execDiscardPending object field value s
  | .setRepeat object field value => Sys2Proof.Machine.execSetRepeat object field value s
  | .start object field value => Sys2Proof.Machine.execStart object field value s
  | .stop object field value => Sys2Proof.Machine.execStop object field value s
  | .abandon object field value => Sys2Proof.Machine.execAbandon object field value s
  | .snapshot object field value => Sys2Proof.Machine.execSnapshot object field value s
  | .popCapture object field value => Sys2Proof.Machine.execPopCapture object field value s
  | .readEvents object field value => Sys2Proof.Machine.execReadEvents object field value s
  | .quiesce object field value => Sys2Proof.Machine.execQuiesce object field value s
  | .resume object field value => Sys2Proof.Machine.execResume object field value s
  | .resetRegulator object field value => Sys2Proof.Machine.execResetRegulator object field value s
  | .pinReset => Sys2Proof.Machine.execPinReset s
  | .lastBeatTakenUpstream => Sys2Proof.Machine.execLastBeatTakenUpstream s
  | .upstreamWriteDataBeat data => Sys2Proof.Machine.execUpstreamWriteDataBeat data s
  | .resetNRelease frame gate mcsLow => Sys2Proof.Machine.execResetNRelease frame gate mcsLow s
  | .frameOpen => Sys2Proof.Machine.execFrameOpen s

end Sys2Proof.Machine
end

