-- ==== Sys2Proof/Safety.lean ====
section
/-! DEFINITION. What the claims speak of: the conditions under which a command is taken, the frames of the
commands, and the invariants of the device. -/

namespace Sys2Proof.Machine

/-! ### Conditions -/

/-- The port executes the command of a frame that closes now (R163, R173). -/
def Listening (s : State) : Prop := s.resetN = .high ∧ s.port.phase ≠ .ignoring

/-- No copy of an edge and no happening of the last tick is still to be taken (R33, R58, R60, R61, R113). -/
def TickTaken (s : State) : Prop :=
  (∀ c, (s.cls c).frameOwed = false ∧ (s.cls c).gateOwed = false) ∧ (∀ c, (s.cls c).tickOwed = false) ∧ s.frame.owed = false ∧ s.gate.owed = false ∧
    ∀ k f, s.entry k = some f → ¬ (f.phase = .pending ∧ f.deadline = some s.timebase)

/-- The interconnect presents `r` and it has not been decided: `r` is offered on the free channel, or it stands there
already (R67, R177). -/
def Presents (s : State) (offered : Option Request) (r : Request) : Prop :=
  (s.up = .free ∧ offered = some r) ∨ s.up = .presented r none

/-- The three conditions of R67 hold. -/
def Accepting (s : State) : Prop := s.through = none ∧ s.refused = none ∧ s.quiesce = .normal

/-- The class has no held request, is regulated and is below its outstanding limit: a request of it reaches the budget
test (steps 2 to 4 of R70). -/
def ReachesBudget (k : ClassRec) : Prop :=
  k.queue = [] ∧ (k.state = .armed ∨ k.state = .running) ∧ k.outstanding < k.active.outLimit

/-- The class is unregulated (R37). -/
def Unregulated (k : ClassRec) : Prop :=
  k.state = .stopped ∨ k.state = .suspended ∨ k.state = .expired

/-- Step 2, 3 or 4 of R70 sends the class's request to the hold queue. -/
def SentToQueue (k : ClassRec) : Prop :=
  k.queue ≠ [] ∨ (Unregulated k ∧ 64 ≤ k.outstanding) ∨
    ((k.state = .armed ∨ k.state = .running) ∧ k.active.outLimit ≤ k.outstanding)

/-- The level matches the polarity: the qualifying edge to it (R41), or the active level (R46). -/
def Matches (l : Level) (p : Polarity) : Prop :=
  (l = .high ∧ p = .risingHigh) ∨ (l = .low ∧ p = .fallingLow)

/-- A sample that is due at the filter now changes its level (R58, R59). -/
def EdgeDue (raw : Level) (f : Filter) : Prop :=
  raw ≠ f.level ∧ (f.interval = .off ∨
    (f.owed = true ∧ f.count + 1 = intervalTicks f.interval ∧ f.run + 1 = f.agreement))

/-- Entry `k` is the lowest-numbered FREE entry (R107). -/
def LowestFree (s : State) (k : EntryIndex) : Prop :=
  s.entry k = none ∧ ∀ j, j < k → s.entry j ≠ none

/-- No TIMEOUT response is owed. -/
def NothingOwed (s : State) : Prop := ∀ k f, s.entry k = some f → f.owed = false

/-- Every class is STOPPED. -/
def AllStopped (s : State) : Prop := ∀ n, (s.cls n).state = .stopped

/-! ### Frames and answers -/

/-- The response held after a command: its status, its code and its value, and the flags byte of the state it
leaves (R166). No frame is open and MDO is not driven. -/
def Answers (t : State) (code : Byte) (status : Status) (value : Word32) : Prop :=
  t.port.phase = .idle ∧ t.port.mdo = none ∧ t.port.held = ⟨status, code, value, responseFlags t⟩

/-- Nothing but the port differs. -/
def OnlyPort (s t : State) : Prop := t = { s with port := t.port }

/-- The global flags differ at most by a TABLE-FULL that has been raised. -/
def FlagsKept (s t : State) : Prop :=
  t.gflags = s.gflags ∨ t.gflags = { s.gflags with tableFull := true }

/-- `t` is `u`, but for a TABLE-FULL that has been raised. -/
def UpToTableFull (u t : State) : Prop := t = { u with gflags := t.gflags } ∧ FlagsKept u t

/-- The three conditions of R94 hold: the downstream request channel is free, an in-flight entry is FREE, and the through
slot holds a request or some head is eligible. -/
def ChoiceOpen (s : State) : Prop :=
  s.down = none ∧ (∃ k, s.entry k = none) ∧ (s.through ≠ none ∨ ∃ c, eligible s c = true)

/-- What the downstream request arbiter leaves of `v`, the state that a happening in `s` has changed to: where the
happening has opened a choice, the grant of the source that R95 names, as the row of that grant takes it, and `v`
elsewhere. -/
structure ChoiceTaken (s v t : State) : Prop where
  idle : ChoiceOpen s ∨ ¬ ChoiceOpen v → t = v
  through : ¬ ChoiceOpen s → ChoiceOpen v → v.through ≠ none →
    (v.altMark = .throughSlot ∨ ∀ c, eligible v c = false) → exec .grantThroughSlot v = .next t
  head : ¬ ChoiceOpen s → ChoiceOpen v → (∃ c, eligible v c = true) →
    (v.altMark = .holdQueues ∨ v.through = none) → exec .grantHead v = .next t

/-- A happening in `s` whose own change gives `u` leaves `t`: a TABLE-FULL may be raised (R99), and a choice that the
happening opens is taken in it (R94). -/
def Follows (s u t : State) : Prop := ∃ v, UpToTableFull u v ∧ ChoiceTaken s v t

/-- The same of a management command, but for the port. -/
def FollowsPort (s u t : State) : Prop := ∃ w, Follows s u w ∧ OnlyPort w t

/-! ### What the rules' tables leave of a class or an entry -/

/-- The overrun mark set on class `k` gives `l` (R71). -/
def OverrunSet (k l : ClassRec) : Prop :=
  (k.overrun = true → l = k) ∧
  (k.overrun = false → l = { k with
    overrun := true
    live := { k.live with overBudgetPeriods := bump k.live.overBudgetPeriods 1 }
    flags := { k.flags with overrun := true } })

/-- The contract that is active after the pending copy, if present, has been applied (R25). -/
def nextContract (k : ClassRec) : Contract := k.waiting.getD k.active

/-- The class after steps 1 and 3 of R48, at elapsed 0. A copy of an edge that it owes stays with it only while its active
mode uses the line (R60, R61). -/
def periodClosed (k : ClassRec) : ClassRec :=
  { k with
    frameOwed := k.frameOwed && decide ((nextContract k).mode = .synced)
    gateOwed := k.gateOwed && decide ((nextContract k).mode = .gated)
    active := nextContract k
    waiting := none
    overrun := false
    elapsed := 0
    live := { k.live with periodsCompleted := bump k.live.periodsCompleted 1 } }

/-- The remaining budget of a refill that carries the leftover (R36). -/
def refilled (c : Contract) (leftover : Nat) : Nat := c.budget + min leftover c.carryCap

/-- A boundary of class `k`, ended by an early qualifying edge or not, gives `l` (R28, R42, R43, R48, R49). -/
structure BoundaryLeaves (gate : Level) (early : Bool) (k l : ClassRec) : Prop where
  expires : k.oneShot = true → l = { periodClosed k with
    state := .expired
    remaining := 0
    carryIn := 0
    frameOwed := false
    gateOwed := false
    flags := { k.flags with expired := true, shortPeriod := early || k.flags.shortPeriod } }
  goesOn : k.oneShot = false →
    (nextContract k).mode = .timed ∨ (nextContract k).mode = .counted →
    l = { periodClosed k with
      state := .running
      remaining := refilled (nextContract k) k.remaining
      carryIn := 0
      flags := { k.flags with shortPeriod := early || k.flags.shortPeriod } }
  gatedRuns : k.oneShot = false → (nextContract k).mode = .gated →
    (k.active.mode = .gated ∧ k.active.polarity = (nextContract k).polarity) ∨
      Matches gate (nextContract k).polarity →
    l = { periodClosed k with
      state := .running
      remaining := refilled (nextContract k) k.remaining
      carryIn := 0
      flags := { k.flags with shortPeriod := early || k.flags.shortPeriod } }
  gatedWaits : k.oneShot = false → (nextContract k).mode = .gated →
    ¬ (k.active.mode = .gated ∧ k.active.polarity = (nextContract k).polarity) →
    ¬ Matches gate (nextContract k).polarity →
    l = { periodClosed k with
      state := .suspended
      remaining := refilled (nextContract k) k.remaining
      carryIn := 0
      flags := { k.flags with shortPeriod := early || k.flags.shortPeriod } }
  syncedRuns : k.oneShot = false → (nextContract k).mode = .synced → early = true →
    k.active.polarity = (nextContract k).polarity → k.active.syncEnd = (nextContract k).syncEnd →
    l = { periodClosed k with
      state := .running
      remaining := refilled (nextContract k) k.remaining
      carryIn := 0
      flags := { k.flags with shortPeriod := true } }
  syncedWaits : k.oneShot = false → (nextContract k).mode = .synced →
    ¬ (early = true ∧ k.active.polarity = (nextContract k).polarity ∧
      k.active.syncEnd = (nextContract k).syncEnd) →
    l = { periodClosed k with
      state := .armed
      remaining := 0
      carryIn := k.remaining
      flags := { k.flags with shortPeriod := early || k.flags.shortPeriod } }

/-- A FRAME edge to the level `edge` delivered to class `k` gives `l` (R41 to R44, R60). -/
structure FrameEdgeLeaves (gate edge : Level) (k l : ClassRec) : Prop where
  notReceptive : k.active.mode ≠ .synced ∨ (k.state ≠ .armed ∧ k.state ≠ .running) → l = k
  starts : k.active.mode = .synced → k.state = .armed → Matches edge k.active.polarity →
    l = { k with
      state := .running
      elapsed := 0
      remaining := refilled k.active k.carryIn
      carryIn := 0 }
  waits : k.active.mode = .synced → k.state = .armed → ¬ Matches edge k.active.polarity → l = k
  early : k.active.mode = .synced → k.state = .running → Matches edge k.active.polarity →
    BoundaryLeaves gate true k l
  ends : k.active.mode = .synced → k.state = .running → ¬ Matches edge k.active.polarity →
    k.active.syncEnd = .edgeOrLength → BoundaryLeaves gate false k l
  goesOn : k.active.mode = .synced → k.state = .running → ¬ Matches edge k.active.polarity →
    k.active.syncEnd = .length → l = k

/-- The FRAME edge changes the class's state or refills it, which reaches the admission unit (R37). -/
def FrameEdgeNotice (edge : Level) (k : ClassRec) : Prop :=
  k.active.mode = .synced ∧
    (((k.state = .armed ∨ k.state = .running) ∧ Matches edge k.active.polarity) ∨
      (k.state = .running ∧ ¬ Matches edge k.active.polarity ∧ k.active.syncEnd = .edgeOrLength))

/-- The GATE change suspends the class (R46). -/
def Suspends (level : Level) (k : ClassRec) : Prop :=
  k.active.mode = .gated ∧ k.state = .running ∧ ¬ Matches level k.active.polarity

/-- The GATE change resumes the class (R47). -/
def Resumes (level : Level) (k : ClassRec) : Prop :=
  k.active.mode = .gated ∧ k.state = .suspended ∧ Matches level k.active.polarity

/-- A forward of a request of class `c` is a reference forward for class `k` (R45). -/
def CountsForward (c : Option ClassId) (k : ClassRec) : Prop :=
  k.state = .running ∧ k.active.mode = .counted ∧ c = some k.active.reference

/-- A forward of a request of class `c` leaves `l` of class `k` (R45). -/
structure ForwardLeaves (gate : Level) (c : Option ClassId) (k l : ClassRec) : Prop where
  other : ¬ CountsForward c k → l = k
  counts : CountsForward c k → k.elapsed + 1 ≠ k.active.length → l = { k with elapsed := k.elapsed + 1 }
  ends : CountsForward c k → k.elapsed + 1 = k.active.length → BoundaryLeaves gate false k l

/-- The deadline that a forward sets now for a request of class `c` (R113). -/
def DeadlineSet (s : State) (c : Option ClassId) (d : Option Time) : Prop :=
  (c = none → d = none) ∧
  ∀ n, c = some n →
    ((s.cls n).active.responseLimit = 0 → d = none) ∧
    ((s.cls n).active.responseLimit ≠ 0 →
      d = some (s.timebase + BitVec.ofNat 32 (s.cls n).active.responseLimit))

/-- The entry that the grant of `a` fills (R107). -/
structure Allocated (s : State) (a : Accepted) (marked : Bool) (f : Flight) : Prop where
  record : f = {
    phase := .pending
    cls := a.cls
    kind := a.request.kind
    address := a.request.address
    len := a.request.len
    initiator := a.request.initiator
    tag := a.request.tag
    marked := marked
    arrival := a.arrival
    forwardTime := s.timebase
    firstBeat := none
    deadline := f.deadline
    owed := false
    lateConsumed := false }
  limit : DeadlineSet s a.cls f.deadline

/-- The end of the life of entry `f` of a request of class `c` or of a BYPASS request, with the given status: the
outstanding count falls, the notice is measured, a stalled request sees the fall, and the drain is tested
(R80, R112, R114, R128, R157). -/
def EndOfLife (f : Flight) (status : RespStatus) (u v : State) : Prop :=
  (f.cls = none → v = testDrain u) ∧
  ∀ c, f.cls = some c → v = testDrain (redecideAt c (completionNotice c f status
    (u.setCls c { u.cls c with outstanding := (u.cls c).outstanding - 1 })))

/-- The state with a beat of the live response of entry `k` held upstream (R110). -/
def holding (k : EntryIndex) (beat : UpBeat) (status : RespStatus) (ended : Bool) (s : State) : State :=
  { s with upResp := .live k beat.tag (some beat) status ended }

/-- The first beat `b` of a live response to the PENDING entry `f`, taken in the state `s`, gives `v` (R110, R111). -/
structure LiveBegins (b : DownBeat) (f : Flight) (s v : State) : Prop where
  streams : f.kind = .read → b.last = false →
    v = (holding b.tag ⟨f.tag, liveStatus b.status, b.data, false⟩ (liveStatus b.status) false s).setEntry
      b.tag (some { f with phase := .streaming, firstBeat := some s.timebase })
  ends : f.kind = .read → b.last = true →
    EndOfLife { f with firstBeat := some s.timebase } (liveStatus b.status)
      ((holding b.tag ⟨f.tag, liveStatus b.status, b.data, true⟩ (liveStatus b.status) true s).setEntry
        b.tag none) v
  acknowledges : f.kind = .write →
    EndOfLife { f with firstBeat := some s.timebase } (liveStatus b.status)
      ((holding b.tag ⟨f.tag, liveStatus b.status, 0, true⟩ (liveStatus b.status) true s).setEntry
        b.tag none) v

/-- The first beat that waits downstream belongs to a live response (R109). -/
def LiveWaits (s : State) : Prop :=
  ∃ b f, s.standing = some b ∧ s.entry b.tag = some f ∧ f.phase = .pending

/-- The choice of the upstream response arbiter in the state `s` gives `v`: a busy arbiter makes none, and a free one
takes the first waiting source (R120). -/
structure Arbitrates (s v : State) : Prop where
  busy : s.upResp ≠ .free → v = s
  refused : s.upResp = .free → ∀ x, s.refused = some x →
    v = { s with upResp := .generated .refusedSlot x.tag (generatedBeats x.kind x.len) }
  owed : s.upResp = .free → s.refused = none → ∀ k f, s.entry k = some f → f.owed = true →
    (∀ j g, j < k → s.entry j = some g → g.owed = false) →
    v = { s with upResp := .generated (.owedTimeout k) f.tag (generatedBeats f.kind f.len) }
  live : s.upResp = .free → s.refused = none → NothingOwed s → ∀ b f, s.standing = some b →
    s.entry b.tag = some f → f.phase = .pending → LiveBegins b f { s with standing := none } v
  nothing : s.upResp = .free → s.refused = none → NothingOwed s → ¬ LiveWaits s → v = s

/-- A first beat can come to be presented downstream: no other waits there, and no response crosses (R175). -/
def DownstreamOpen (s : State) : Prop :=
  s.standing = none ∧ s.discard = none ∧ livePassing s = false

/-- The offer of the first beat `p`, or of none, leaves `d` as the first beat that waits downstream: that of a live
response waits until it is taken (R109). -/
structure BeatStands (p : Option DownBeat) (s : State) (d : Option DownBeat) : Prop where
  waits : ∀ b f, p = some b → DownstreamOpen s → s.entry b.tag = some f → f.phase = .pending → d = some b
  otherwise : (∀ b f, p = some b → DownstreamOpen s → s.entry b.tag = some f → f.phase ≠ .pending) →
    d = s.standing

/-- The first beat on the downstream response channel is `p` when `b` is offered: `p` waits there already, or none does
and `p` is `b` (R109). -/
def FirstBeatIs (s : State) (b p : DownBeat) : Prop :=
  s.standing = some p ∨ (s.standing = none ∧ p = b)

/-- The abandonment of the PENDING entry `k` gives `v`, the choice of the arbiter included (R114, R120). -/
def Abandons (k : EntryIndex) (f : Flight) (s v : State) : Prop :=
  ∃ u w, u = s.setEntry k (some { f with phase := .abandoned, owed := true, lateConsumed := false }) ∧
    (f.cls = none → w = testDrain u) ∧
    (∀ c, f.cls = some c → w = testDrain (redecideAt c (completionNotice c f .timeout
      (u.setCls c { u.cls c with
        outstanding := (u.cls c).outstanding - 1
        flags := { (u.cls c).flags with timeout := true } })))) ∧
    Arbitrates w v

/-- The refused slot after a request has been accepted into it; it does not keep the class (R3, R68, R69, R73;
notes/assumptions/29.md). -/
def RefusedHolds (s : State) (r : Request) (x : Refused) : Prop :=
  x = {
    kind := r.kind
    len := r.len
    initiator := r.initiator
    tag := r.tag
    charge := chargeOf r
    arrival := s.timebase
    marked := false
    urgency := r.urgency }

/-- The forward that the grant of `a` puts on the downstream request channel, under the tag `k` (R108, R178). -/
def forwardOf (k : EntryIndex) (a : Accepted) : Forward where
  header := {
    kind := a.request.kind
    address := a.request.address
    len := a.request.len
    initiator := a.request.initiator
    tag := k
    urgency := a.urgency }
  data := a.data
  sent := 0

/-- The port's answer to a refused command, with nothing else changed (R167). -/
def RefusedWith (s t : State) (code : Byte) (status : Status) : Prop :=
  OnlyPort s t ∧ Answers t code status 0

/-! ### TABLE-FULL over one happening, and the copies of an edge -/

/-- The happening from `s` to `t` takes the last FREE entry, be it one that it has freed itself, puts a request into the
through slot, or makes a head ready (R99). -/
def BringsWait (s t : State) : Prop :=
  lowestFree s ≠ none ∨ (s.down = none ∧ t.down ≠ none) ∨ (s.through = none ∧ t.through ≠ none) ∨
    ∃ n, headReady t n = true ∧ headReady s n = false

/-- A happening that brings a table with no FREE entry and a waiting grant together leaves TABLE-FULL set (R99). -/
def RaisesTableFull (s t : State) : Prop :=
  lowestFree t = none → grantWaits t = true → BringsWait s t → t.gflags.tableFull = true

/-- A happening that sets TABLE-FULL leaves no entry FREE and a grant waiting, and has brought the two together (R99). -/
def SetsTableFullOnly (s t : State) : Prop :=
  s.gflags.tableFull = false → t.gflags.tableFull = true →
    lowestFree t = none ∧ grantWaits t = true ∧ BringsWait s t

/-- Class `n` takes its copy of the last FRAME edge in the state `s`, as a happening of its own; a class that owes none
is left (R37, R41 to R44, R60, R77, R99). -/
structure FrameCopyTaken (n : ClassId) (s t : State) : Prop where
  owesNone : (s.cls n).frameOwed = false → t = s
  takes : (s.cls n).frameOwed = true →
    ∃ k, FrameEdgeLeaves s.gate.level s.frame.level { s.cls n with frameOwed := false } k ∧
      (FrameEdgeNotice s.frame.level (s.cls n) → Follows s (redecideAt n (s.setCls n k)) t) ∧
      (¬ FrameEdgeNotice s.frame.level (s.cls n) → t = s.setCls n k)
  raises : RaisesTableFull s t
  only : SetsTableFullOnly s t

/-- Class `n` takes its copy of the last GATE change in the state `s`, as a happening of its own; a class that owes none
is left (R37, R46, R47, R61, R77, R99). -/
structure GateCopyTaken (n : ClassId) (s t : State) : Prop where
  owesNone : (s.cls n).gateOwed = false → t = s
  suspends : (s.cls n).gateOwed = true → Suspends s.gate.level (s.cls n) →
    Follows s (redecideAt n (s.setCls n { s.cls n with gateOwed := false, state := .suspended })) t
  resumes : (s.cls n).gateOwed = true → Resumes s.gate.level (s.cls n) →
    Follows s (redecideAt n (s.setCls n { s.cls n with gateOwed := false, state := .running })) t
  stays : (s.cls n).gateOwed = true → ¬ Suspends s.gate.level (s.cls n) → ¬ Resumes s.gate.level (s.cls n) →
    t = s.setCls n { s.cls n with gateOwed := false }
  raises : RaisesTableFull s t
  only : SetsTableFullOnly s t

/-- The classes of the list take their copies one after the other, from `s` to `t`. -/
def CopiesTaken (taken : ClassId → State → State → Prop) : List ClassId → State → State → Prop
  | [], s, t => t = s
  | n :: l, s, t => ∃ u, taken n s u ∧ CopiesTaken taken l u t

/-- The class receives a FRAME edge (R60). -/
def ReceivesFrame (k : ClassRec) : Prop := k.active.mode = .synced ∧ (k.state = .armed ∨ k.state = .running)

/-- The class receives a GATE change (R61). -/
def ReceivesGate (k : ClassRec) : Prop := k.active.mode = .gated ∧ (k.state = .running ∨ k.state = .suspended)

/-! ### The catalogue of readable items (11 section 11.5) -/

/-- The fourteen fields of a contract, in field order. -/
def contractItems (k : Contract) : List (Option Word32) :=
  [word (modeCode k.mode), word k.length, word k.budget, word k.carryCap, word k.outLimit, word k.holdLimit,
    word (overBudgetCode k.overBudget), word (overflowCode k.overflow), word k.markedUrgency,
    word k.responseLimit, word k.captureThreshold, word (polarityCode k.polarity),
    word (syncEndCode k.syncEnd), word k.reference.val].map some

/-- The items of a class from field 30h. -/
def classItems (k : ClassRec) : List (Option Word32) :=
  [boolWord k.oneShot, word (stateCode k.state), word k.elapsed, word k.remaining, word k.carryIn,
    boolWord k.overrun, word k.outstanding, word k.queue.length].map some

/-- The items of a line filter. -/
def filterItems (f : Filter) : List (Option Word32) :=
  [word (intervalTicks f.interval), word f.agreement, levelWord f.level, word f.run].map some

/-- The items of the snapshot view. -/
def snapshotItems (v : Snapshot) : List (Option Word32) :=
  ([word v.cls.val, v.time, word v.stats.completions, word v.stats.errorCompletions, word v.stats.timeouts,
    word v.stats.lateResponses, word v.stats.unitsCharged, word v.stats.unitsMarked,
    word v.stats.requestsHeld, word v.stats.requestsRefused, word v.stats.periodsCompleted,
    word v.stats.overBudgetPeriods, word v.stats.supersededCommits, word v.stats.waitMin,
    word v.stats.waitMax, word (v.stats.waitSum / 4294967296), word v.stats.waitSum] ++
    v.stats.bins.toList.map word ++ [word v.stats.holdMax, word v.stats.streamMax]).map some

/-- The items of the capture view; the stream ticks may be absent. -/
def captureItems (r : Capture) : List (Option Word32) :=
  [some (word r.cls.val), some (word r.initiator.val), some (r.tag.setWidth 32),
    some (word (kindCode r.kind)), some ((r.address.extractLsb' 32 8).setWidth 32),
    some (r.address.setWidth 32), some (word (beats r.len)), some (word r.hold), some (word r.wait),
    r.stream.map word, some (word (statusCode r.status)), some (boolWord r.marked), some r.completion]

/-- No item of a view that holds nothing. -/
def emptyItems (n : Nat) : List (Option Word32) := List.replicate n none

/-- The readable items of an object, as runs of items that begin at a field: `none` for an object that is not in
the catalogue, and `none` as an item that is absent at present. -/
def catalogue (s : State) (o : Byte) : Option (List (Nat × List (Option Word32))) :=
  if h : o.toNat < 16 then
    let k := s.cls ⟨o.toNat, h⟩
    some [(0x00, contractItems k.staging),
      (0x10, match k.waiting with
        | some c => contractItems c
        | none => emptyItems 14),
      (0x20, contractItems k.active), (0x30, classItems k)]
  else
    match o.toNat with
    | 0x20 => some [(0, (List.finRange 64).map fun i => some (mapEntryWord s.classMap[i]))]
    | 0x30 => some [(0, [some (word (tickClocks s.tickDiv)), some s.timebase])]
    | 0x31 => some [(0, filterItems s.frame)]
    | 0x32 => some [(0, filterItems s.gate)]
    | 0x33 => some [(0, s.edges.toList.map fun e => some (word e))]
    | 0x34 => some [(0, match s.snapshot with
        | some v => snapshotItems v
        | none => emptyItems 27)]
    | 0x35 => some [(0x00, match s.captureView with
        | some r => captureItems r
        | none => emptyItems 13),
      (0x10, [some (word s.log.length), some (word s.lost)])]
    | 0x36 => some [(0x00, s.enables.toList.map fun b => some (boolWord b)), (0x10, [some (eventSummary s)])]
    | 0x37 => some [(0, (List.finRange 64).map fun k => some (entryWord (s.entry k)))]
    | 0x3F => some [(0, [some 0x416, some 1])]
    | _ => none

/-- READ-FIELD on the field answers so, whatever its value word, and changes nothing but the port (R169). -/
def Reads (s : State) (o f : Byte) (status : Status) (value : Word32) : Prop :=
  ∀ v : Word32, ∃ t, exec (.readField o f v) s = .next t ∧ OnlyPort s t ∧ Answers t 0x01 status value

/-- Both commands leave the same next state. -/
def SameNext (c d : Instr) (s : State) : Prop := ∃ t, exec c s = .next t ∧ exec d s = .next t

/-- The commands, run one after the other from `s`, leave `t`. -/
def Runs : List Instr → State → State → Prop
  | [], s, t => t = s
  | c :: l, s, t => ∃ u, exec c s = .next u ∧ Runs l u t

/-- FILTER_EDGE takes the sample that the filter of the line owes, with the raw level of its tick, and every class takes
its copy of an edge; a filter that owes none is left. -/
def OwedSampleTaken (line : Line) (s t : State) : Prop :=
  ((s.filter line).owed = true → exec (.filterEdge line ⟨some (s.filter line).raw, List.finRange 16⟩) s = .next t) ∧
    ((s.filter line).owed = false → t = s)

/-- A hold entry less the data of its WRITE that has arrived. -/
def heldItems (q : List Accepted) : List Accepted := q.map fun a => { a with data := [] }

/-! ### Invariants -/

/-- Every field of a contract is within its range (R14). -/
def ContractLegal (k : Contract) : Prop :=
  ∀ i : Fin 14, fieldInRange i (contractField k i) = true

/-- What R14, R36, R37, R39 and R49 say of a class at every moment. A class owes a copy of an edge only while it is
receptive (R60, R61). -/
structure ClassLegal (n : ClassId) (k : ClassRec) : Prop where
  staging : ContractLegal k.staging
  active : ContractLegal k.active
  waiting : ∀ w, k.waiting = some w → ContractLegal w
  waitingState : k.waiting ≠ none → k.state = .armed ∨ k.state = .running ∨ k.state = .suspended
  notOwnReference : selfReference n k.active = false
  waitingReference : ∀ w, k.waiting = some w → selfReference n w = false
  remainingZero : k.state = .stopped ∨ k.state = .armed ∨ k.state = .expired → k.remaining = 0
  elapsedZero : k.state = .stopped ∨ k.state = .armed ∨ k.state = .expired → k.elapsed = 0
  elapsedBelow : k.elapsed < k.active.length
  remainingBound : k.remaining ≤ k.active.budget + k.active.carryCap
  carryZero : k.state ≠ .armed → k.carryIn = 0
  carryBound : k.carryIn ≤ 131070
  armedMode : k.state = .armed → k.active.mode = .synced
  suspendedMode : k.state = .suspended → k.active.mode = .gated
  overrunClear : k.state = .stopped ∨ k.state = .expired → k.overrun = false
  frameCopy : k.frameOwed = true → ReceivesFrame k
  gateCopy : k.gateOwed = true → ReceivesGate k

/-- Every class is legal. -/
def PeriodsLegal (s : State) : Prop := ∀ n, ClassLegal n (s.cls n)

/-- The hold store holds no more than its 48 entries (R88). -/
def HoldStoreFits (s : State) : Prop := heldTotal s ≤ Config.holdEntries

/-- The capture log and the lost count are within their sizes (R140). -/
def LogFits (s : State) : Prop := s.log.length ≤ Config.logRecords ∧ s.lost ≤ Config.lostMax

/-- The histogram edges are in range and strictly ascending (R133). -/
def EdgesLegal (s : State) : Prop :=
  (∀ i : Fin 7, 1 ≤ s.edges[i] ∧ s.edges[i] ≤ Config.intervalMax) ∧
    ∀ i j : Fin 7, i < j → s.edges[i] < s.edges[j]

/-- A filter record within the values of R57; under OFF no tick is counted, so none is owed (R58). -/
structure FilterLegal (f : Filter) : Prop where
  agreement : 2 ≤ f.agreement ∧ f.agreement ≤ 7
  run : f.run < f.agreement
  off : f.interval = .off → f.run = 0 ∧ f.count = 0 ∧ f.owed = false
  count : f.interval ≠ .off → f.count < intervalTicks f.interval

/-- Both filters are legal. -/
def FiltersLegal (s : State) : Prop := FilterLegal s.frame ∧ FilterLegal s.gate

/-- The marks and the first-beat time of an entry as R106 and R119 allow them. That the late response to an ABANDONED entry
leaves its first-beat time absent is the model's choice (DESIGN CHOICE, notes/assumptions/33.md). -/
structure FlightLegal (f : Flight) : Prop where
  marks : f.phase ≠ .abandoned → f.owed = false ∧ f.lateConsumed = false
  duties : f.phase = .abandoned → f.owed = true ∨ f.lateConsumed = false
  pendingBeat : f.phase ≠ .streaming → f.firstBeat = none
  streamingRead : f.phase = .streaming → f.kind = .read

/-- Every entry in use is legal. -/
def EntriesLegal (s : State) : Prop := ∀ k f, s.entry k = some f → FlightLegal f

/-- An entry is STREAMING exactly while its own response is being passed (R109). -/
def StreamingOwned (s : State) : Prop :=
  ∀ k, (∃ f, s.entry k = some f ∧ f.phase = .streaming) ↔
    ∃ tag held status, s.upResp = .live k tag held status false

/-- While the arbiter is free, no source waits (R120). -/
def ArbiterChosen (s : State) : Prop :=
  s.upResp = .free → s.refused = none ∧ NothingOwed s ∧ ¬ LiveWaits s

/-- A first beat that waits downstream has the channel to itself and names a PENDING entry, or an ABANDONED one whose
late response has not been consumed (R109). -/
def StandingLegal (s : State) : Prop :=
  ∀ b, s.standing = some b → s.discard = none ∧ livePassing s = false ∧
    ∃ f, s.entry b.tag = some f ∧
      (f.phase = .pending ∨ (f.phase = .abandoned ∧ f.lateConsumed = false))

/-- The entry holds a request of class `c` that is PENDING or STREAMING. -/
def liveOf (c : ClassId) (e : Option Flight) : Bool :=
  match e with
  | some f => decide (f.cls = some c) && !decide (f.phase = .abandoned)
  | none => false

/-- The requests of class `c` in PENDING or STREAMING entries. -/
def liveCount (s : State) (c : ClassId) : Nat :=
  (List.finRange 64).countP fun k => liveOf c (s.entry k)

/-- The requests of class `c` in the through slot. -/
def throughCount (s : State) (c : ClassId) : Nat :=
  match s.through with
  | some a => if a.cls = some c then 1 else 0
  | none => 0

/-- Every held request carries the class whose queue it is in (R3, R88). -/
def QueuesOwned (s : State) : Prop := ∀ c, ∀ a ∈ (s.cls c).queue, a.cls = some c

/-- The outstanding counts are what R80 says they equal. -/
def OutstandingExact (s : State) : Prop :=
  QueuesOwned s ∧ ∀ c, (s.cls c).outstanding = throughCount s c + liveCount s c

/-- No outstanding count is above 64 (R80, R81). -/
def OutstandingBounded (s : State) : Prop :=
  ∀ c, (s.cls c).outstanding ≤ Config.outstandingCeiling

/-- While a request stalls, the through slot and the refused slot are empty (R76). -/
def StallLeavesSlotsEmpty (s : State) : Prop :=
  stalledAt s ≠ none → s.through = none ∧ s.refused = none

end Sys2Proof.Machine
end

