-- ==== Sys2Proof/Certificates/Slice0/Obligations.lean ====
section
/-! DEFINITION. The statements for the provers. A command is written as its constructor, `exec c s` is its effect, and a
next state is given as the state before it with the fields that change. `Follows` adds what may follow in the same
happening: a TABLE-FULL that it raises (R99), and the grant of a choice that it opens, as GRANT_THROUGH_SLOT or GRANT_HEAD
takes it (R94; notes/assumptions/5.md). `FollowsPort` is the same of a management command, but for the port's own state. -/

open Sys2Proof Sys2Proof.Machine

/-! ### The step -/

/-- A step runs the command at the front of the queue on the state with the queue's rest (the row's cut). On an empty
queue the block idles: the model's choice (notes/assumptions/2.md). -/
def Obligations.StepRunsFrontCommand : Prop :=
  (∀ (c : Instr) (l : List Instr) (s : State), s.pending = c :: l →
    step s = exec c { s with pending := l }) ∧
  (∀ s : State, s.pending = [] → step s = .next s) ∧
  ∀ (c : Instr) (s t : State), exec c s = .next t → t.pending = s.pending

/-! ### Pin reset -/

/-- PIN_RESET gives every block its pin reset value (R11, R17, R31, R55, R65, R85, R103, R126, R143, R152, R154,
R173). -/
def Obligations.PinResetValues : Prop :=
  ∀ s : State, ∃ t, exec .pinReset s = .next t ∧
    t.resetN = .low ∧ t.tickDiv = .d1 ∧ t.intervalDiv = .d1 ∧ t.timebase = 0 ∧
    (∀ line, (t.filter line).interval = .off ∧ (t.filter line).agreement = 3 ∧
      (t.filter line).level = .low ∧ (t.filter line).run = 0 ∧ (t.filter line).count = 0) ∧
    (∀ i : Initiator, t.classMap[i] = ⟨.bypass, .bypass⟩) ∧
    (∀ n, (t.cls n).staging = defaultContract ∧ (t.cls n).active = defaultContract ∧
      (t.cls n).waiting = none ∧ (t.cls n).oneShot = false ∧ (t.cls n).state = .stopped ∧
      (t.cls n).elapsed = 0 ∧ (t.cls n).remaining = 0 ∧ (t.cls n).carryIn = 0 ∧
      (t.cls n).overrun = false ∧ (t.cls n).outstanding = 0 ∧ (t.cls n).queue = [] ∧
      (t.cls n).live = clearStats ∧ (t.cls n).flags = noClassFlags) ∧
    t.up = .free ∧ t.through = none ∧ t.refused = none ∧ t.rrPos = 15 ∧
    t.altMark = .throughSlot ∧ t.down = none ∧ (∀ k, t.entry k = none) ∧ t.discard = none ∧
    t.standing = none ∧ t.upResp = .free ∧ t.edges = #v[16, 32, 64, 128, 256, 512, 1024] ∧ t.snapshot = none ∧
    t.log = [] ∧ t.captureView = none ∧ t.lost = 0 ∧ t.gflags = noGlobalFlags ∧
    (∀ i : Fin 11, t.enables[i] = false) ∧ t.quiesce = .normal ∧ t.flush = false ∧
    t.port = ⟨.idle, [], none, ⟨.ok, 0, 0, 0⟩⟩ ∧ t.pending = s.pending

/-- RESET_N_RELEASE after a pin reset: each filter takes its first sample under OFF, no class receives it, and the port
opens no frame before MCS_N is high (R55, R65, R173). That the release itself takes the samples, which R65 puts at the
next bus clock, is the model's choice (notes/assumptions/3.md). -/
def Obligations.ResetRelease : Prop :=
  ∀ (f g : Level) (mcsLow : Bool) (s : State), s.resetN = .low → AllStopped s →
    s.frame.interval = .off → s.gate.interval = .off → s.frame.run = 0 → s.gate.run = 0 →
    exec (.resetNRelease f g mcsLow) s = .next { s with
      resetN := .high
      frame := { s.frame with level := f, raw := f, owed := false }
      gate := { s.gate with level := g, raw := g, owed := false }
      port := { s.port with phase := if mcsLow then .ignoring else .idle } }

/-- While RESET_N is low no command but the two of the pin changes anything (R33, R58, R173, R182). -/
def Obligations.NothingHappensInReset : Prop :=
  ∀ (c : Instr) (s : State), s.resetN = .low → c ≠ .pinReset →
    (∀ f g m, c ≠ .resetNRelease f g m) → exec c s = .next s

/-- The state after reset meets every invariant below (R31, R55, R65, R85, R103, R126, R143). That RESET_N is high in it is
the model's choice (notes/assumptions/1.md). -/
def Obligations.ResetMeetsInvariants : Prop :=
  State.reset.resetN = .high ∧ TickTaken State.reset ∧ PeriodsLegal State.reset ∧
    HoldStoreFits State.reset ∧ LogFits State.reset ∧ EdgesLegal State.reset ∧
    FiltersLegal State.reset ∧ EntriesLegal State.reset ∧ StreamingOwned State.reset ∧
    OutstandingExact State.reset ∧ OutstandingBounded State.reset ∧
    StallLeavesSlotsEmpty State.reset ∧ ArbiterChosen State.reset ∧ StandingLegal State.reset ∧
    ¬ ChoiceOpen State.reset

/-! ### Ticks, periods and lines -/

/-- TICK: the timebase rises by one, the next interval is counted under TICK-DIV, each filter counts, and each class takes
the tick, but for a boundary, which is the class's own happening, and for a class of `later`, which takes the tick later
(R33, R34, R40, R42, R46, R58). The split into happenings is DEDUCED (notes/assumptions/4.md). -/
def Obligations.TickCounts : Prop :=
  ∀ (f g : Level) (later : List ClassId) (s : State), s.resetN = .high → TickTaken s →
    ∃ t, exec (.tick f g later) s = .next t ∧
      t = { s with
        timebase := s.timebase + 1
        intervalDiv := s.tickDiv
        frame := filterTick f s.frame
        gate := filterTick g s.gate
        classes := t.classes } ∧
      ∀ n, ((s.cls n).active.mode = .counted → t.cls n = s.cls n) ∧
        ((s.cls n).active.mode ≠ .counted → n ∈ later →
          t.cls n = { s.cls n with tickOwed := true }) ∧
        (n ∉ later → (s.cls n).state ≠ .running → t.cls n = s.cls n) ∧
        ((s.cls n).active.mode ≠ .counted → n ∉ later → (s.cls n).state = .running →
          (s.cls n).elapsed + 1 ≠ (s.cls n).active.length →
          t.cls n = { s.cls n with elapsed := (s.cls n).elapsed + 1 }) ∧
        ((s.cls n).active.mode ≠ .counted → n ∉ later → (s.cls n).state = .running →
          (s.cls n).elapsed + 1 = (s.cls n).active.length →
          t.cls n = { s.cls n with tickOwed := true })

/-- What the next TICK still finds owed is taken first in it, and none is lost: that TICK leaves what it leaves after the
copies of FRAME and of GATE that the classes owe, PERIOD_BOUNDARY for each class, FILTER_EDGE for each filter that owes a
sample, with the raw level of its tick and the copies of its edge, and DEADLINE for each entry (R33, R58, R60, R61, R113;
DEDUCED, the order too, notes/assumptions/4.md and 25.md). -/
def Obligations.NextTickTakesOwedBoundary : Prop :=
  ∀ (f g : Level) (later : List ClassId) (s r u v w x : State), s.resetN = .high →
    Runs [.filterEdge .frame ⟨none, List.finRange 16⟩, .filterEdge .gate ⟨none, List.finRange 16⟩] s r →
    Runs ((List.finRange 16).map .periodBoundary) r u → OwedSampleTaken .frame u v → OwedSampleTaken .gate v w →
    Runs ((List.finRange 64).map .deadline) w x → TickTaken x →
    exec (.tick f g later) s = exec (.tick f g later) x

/-- PERIOD_BOUNDARY: the class that owes the tick completing its period takes the boundary, and a stalled request last
found at it is decided again (R37, R48, R49, R77). The model's choices: an owed tick that is no boundary advances the
elapsed count, or passes by a class that is no longer RUNNING or has become COUNTED (notes/assumptions/4.md), and a
class that owes no tick is left (notes/assumptions/6.md). A TABLE-FULL and, where it opens a choice, a grant may follow
in the happening (R94, R99; DEDUCED, notes/assumptions/5.md and 10.md). -/
def Obligations.PeriodBoundary : Prop :=
  ∀ (n : ClassId) (s : State), s.resetN = .high →
    ((s.cls n).tickOwed = true → (s.cls n).state = .running → (s.cls n).active.mode ≠ .counted →
      (s.cls n).elapsed + 1 = (s.cls n).active.length →
      ∃ k t, BoundaryLeaves s.gate.level false { s.cls n with tickOwed := false } k ∧
        exec (.periodBoundary n) s = .next t ∧ Follows s (redecideAt n (s.setCls n k)) t) ∧
    ((s.cls n).tickOwed = true → (s.cls n).state = .running → (s.cls n).active.mode ≠ .counted →
      (s.cls n).elapsed + 1 ≠ (s.cls n).active.length →
      exec (.periodBoundary n) s = .next (s.setCls n { s.cls n with
        tickOwed := false, elapsed := (s.cls n).elapsed + 1 })) ∧
    ((s.cls n).tickOwed = true → (s.cls n).state ≠ .running ∨ (s.cls n).active.mode = .counted →
      exec (.periodBoundary n) s = .next (s.setCls n { s.cls n with tickOwed := false })) ∧
    ((s.cls n).tickOwed = false → exec (.periodBoundary n) s = .next s)

/-- A filter under an interval counts each tick, and the tick that completes the interval samples the raw line: the
agreement run is cleared or counts one more, and the sample that would be an edge is left to FILTER_EDGE (R58, R59; the split
is notes/assumptions/4.md). A sample that FILTER_EDGE takes and that changes no level hands no edge on (R59), and an owed
tick that a settings write has put inside the new interval is counted and samples nothing (R63). With no sample due
FILTER_EDGE only records the raw level (notes/assumptions/6.md). The copies that it takes besides are those that it takes
without the sample (FrameEdge and GateEdge say what they are), and with neither it leaves the state. -/
def Obligations.SampleWithoutEdge : Prop :=
  (∀ (raw : Level) (f : Filter),
    (f.interval = .off → filterTick raw f = { f with raw := raw }) ∧
    (f.interval ≠ .off → f.count + 1 ≠ intervalTicks f.interval →
      filterTick raw f = { f with raw := raw, count := f.count + 1 }) ∧
    (f.interval ≠ .off → f.count + 1 = intervalTicks f.interval → raw = f.level →
      filterTick raw f = { f with raw := raw, count := 0, run := 0 }) ∧
    (f.interval ≠ .off → f.count + 1 = intervalTicks f.interval → raw ≠ f.level →
      f.run + 1 ≠ f.agreement →
      filterTick raw f = { f with raw := raw, count := 0, run := f.run + 1 }) ∧
    (f.interval ≠ .off → f.count + 1 = intervalTicks f.interval → raw ≠ f.level →
      f.run + 1 = f.agreement → filterTick raw f = { f with raw := raw, owed := true })) ∧
  (∀ (line : Line) (s : State), exec (.filterEdge line ⟨none, []⟩) s = .next s) ∧
  ∀ (line : Line) (raw : Level) (now : List ClassId) (s : State), s.resetN = .high →
    ((s.filter line).interval = .off → raw = (s.filter line).level →
      exec (.filterEdge line ⟨some raw, now⟩) s = exec (.filterEdge line ⟨none, now⟩)
        (s.setFilter line { s.filter line with raw := raw, owed := false, run := 0 })) ∧
    ((s.filter line).interval ≠ .off → (s.filter line).owed = true →
      (s.filter line).count + 1 = intervalTicks (s.filter line).interval →
      (raw = (s.filter line).level →
        exec (.filterEdge line ⟨some raw, now⟩) s = exec (.filterEdge line ⟨none, now⟩)
          (s.setFilter line { s.filter line with raw := raw, owed := false, count := 0, run := 0 })) ∧
      (raw ≠ (s.filter line).level → (s.filter line).run + 1 ≠ (s.filter line).agreement →
        exec (.filterEdge line ⟨some raw, now⟩) s = exec (.filterEdge line ⟨none, now⟩)
          (s.setFilter line { s.filter line with
            raw := raw, owed := false, count := 0, run := (s.filter line).run + 1 }))) ∧
    ((s.filter line).interval ≠ .off → (s.filter line).owed = true →
      (s.filter line).count + 1 ≠ intervalTicks (s.filter line).interval →
      exec (.filterEdge line ⟨some raw, now⟩) s = exec (.filterEdge line ⟨none, now⟩)
        (s.setFilter line { s.filter line with
          raw := raw, owed := false, count := (s.filter line).count + 1 })) ∧
    ((s.filter line).interval ≠ .off → (s.filter line).owed = false →
      exec (.filterEdge line ⟨some raw, now⟩) s = exec (.filterEdge line ⟨none, now⟩)
        (s.setFilter line { s.filter line with raw := raw }))

/-- FILTER_EDGE on FRAME: the filtered level changes, and each receptive class owes its copy of the edge, which it takes
as a happening of its own, as R41 to R44 lay down (R59, R60). A stalled request last found at the class is decided again
when the copy changes the class's state or budget (R37, R77), and a TABLE-FULL and, where it opens a choice, a grant may
follow in the happening of the copy (R94, R99; DEDUCED, notes/assumptions/5.md and 10.md). The model's choice: a command
names the classes that take their copies in it, and their order; the others take theirs in a later one, and all before the
next edge (DESIGN CHOICE, notes/assumptions/25.md). -/
def Obligations.FrameEdge : Prop :=
  ∀ (now : List ClassId) (s : State), s.resetN = .high →
    (∃ t, exec (.filterEdge .frame ⟨none, now⟩) s = .next t ∧ CopiesTaken FrameCopyTaken now s t) ∧
    ∀ raw : Level, EdgeDue raw s.frame →
      ∃ r u t, exec (.filterEdge .frame ⟨some raw, now⟩) s = .next t ∧
        CopiesTaken FrameCopyTaken (List.finRange 16) s r ∧
        u = { r with
          frame := { s.frame with
            raw := raw
            level := raw
            owed := false
            run := if s.frame.interval = .off then s.frame.run else 0
            count := if s.frame.interval = .off then s.frame.count else 0 }
          classes := u.classes } ∧
        (∀ n, (ReceivesFrame (r.cls n) → u.cls n = { r.cls n with frameOwed := true }) ∧
          (¬ ReceivesFrame (r.cls n) → u.cls n = r.cls n)) ∧
        CopiesTaken FrameCopyTaken now u t

/-- FILTER_EDGE on GATE: the filtered level changes, and each receptive class owes its copy of the change, which it takes
as a happening of its own: a RUNNING GATED class is suspended and a SUSPENDED one resumes, with its elapsed count and
remaining budget (R46, R47, R59, R61). A stalled request last found at the class is decided again when the copy changes
the class's state (R37, R77), and a TABLE-FULL and, where it opens a choice, a grant may follow in the happening of the
copy (R94, R99; DEDUCED, notes/assumptions/5.md and 10.md). The model's choice: a command names the classes that take
their copies in it, and their order; the others take theirs in a later one, and all before the next change (DESIGN CHOICE,
notes/assumptions/25.md). -/
def Obligations.GateEdge : Prop :=
  ∀ (now : List ClassId) (s : State), s.resetN = .high →
    (∃ t, exec (.filterEdge .gate ⟨none, now⟩) s = .next t ∧ CopiesTaken GateCopyTaken now s t) ∧
    ∀ raw : Level, EdgeDue raw s.gate →
      ∃ r u t, exec (.filterEdge .gate ⟨some raw, now⟩) s = .next t ∧
        CopiesTaken GateCopyTaken (List.finRange 16) s r ∧
        u = { r with
          gate := { s.gate with
            raw := raw
            level := raw
            owed := false
            run := if s.gate.interval = .off then s.gate.run else 0
            count := if s.gate.interval = .off then s.gate.count else 0 }
          classes := u.classes } ∧
        (∀ n, (ReceivesGate (r.cls n) → u.cls n = { r.cls n with gateOwed := true }) ∧
          (¬ ReceivesGate (r.cls n) → u.cls n = r.cls n)) ∧
        CopiesTaken GateCopyTaken now u t

/-! ### Admission -/

/-- ADMISSION_DECISION passes a BYPASS request, and a request of an unregulated class with no held request and fewer
than 64 outstanding, to the through slot uncharged with its upstream urgency (R4, steps 1 and 3 of R70). A TABLE-FULL
and, where it opens a choice, a grant may follow in the happening (R94, R99; DEDUCED, notes/assumptions/5.md and
10.md). -/
def Obligations.UnchargedRequestPasses : Prop :=
  ∀ (offered : Option Request) (r : Request) (s : State), s.resetN = .high →
    Presents s offered r → Accepting s →
    (classify s r = .bypass → ∃ t, exec (.admissionDecision offered) s = .next t ∧
      Follows s { s with
        through := some ⟨r, none, chargeOf r, s.timebase, false, r.urgency, []⟩
        up := afterHeader r .through } t) ∧
    ∀ c, classify s r = .cls c → (s.cls c).queue = [] → Unregulated (s.cls c) →
      (s.cls c).outstanding < 64 → ∃ t, exec (.admissionDecision offered) s = .next t ∧
      Follows s ((({ s with
        through := some ⟨r, some c, chargeOf r, s.timebase, false, r.urgency, []⟩
        up := afterHeader r .through } : State)).setCls c
          { s.cls c with outstanding := (s.cls c).outstanding + 1 }) t

/-- ADMISSION_DECISION passes a request of a regulated class whose charge fits: the remaining budget falls by the
charge, which the units-charged count rises by (step 5 of R70, R51). The charge of a request is 1 for a length of 1 to 4
beats, 2 for 5 to 8, 3 for 9 to 12 and 4 for 13 to 16, whatever its other items (R69). A TABLE-FULL and, where it opens a
choice, a grant may follow in the happening (R94, R99; DEDUCED, notes/assumptions/5.md and 10.md). -/
def Obligations.FittingRequestCharged : Prop :=
  (∀ r : Request,
    (r.len.toNat + 1 ≤ 4 → chargeOf r = 1) ∧
    (5 ≤ r.len.toNat + 1 → r.len.toNat + 1 ≤ 8 → chargeOf r = 2) ∧
    (9 ≤ r.len.toNat + 1 → r.len.toNat + 1 ≤ 12 → chargeOf r = 3) ∧
    (13 ≤ r.len.toNat + 1 → chargeOf r = 4)) ∧
  ∀ (offered : Option Request) (r : Request) (c : ClassId) (s : State), s.resetN = .high →
    Presents s offered r → Accepting s → classify s r = .cls c → ReachesBudget (s.cls c) →
    chargeOf r ≤ (s.cls c).remaining →
    ∃ t, exec (.admissionDecision offered) s = .next t ∧
      Follows s ((({ s with
        through := some ⟨r, some c, chargeOf r, s.timebase, false, r.urgency, []⟩
        up := afterHeader r .through } : State)).setCls c { s.cls c with
          outstanding := (s.cls c).outstanding + 1
          remaining := (s.cls c).remaining - chargeOf r
          live := { (s.cls c).live with
            unitsCharged := bump (s.cls c).live.unitsCharged (chargeOf r) } }) t

/-- ADMISSION_DECISION on a request over budget sets the overrun mark and, under MARK, passes it uncharged with the
marked urgency, under REJECT puts it into the refused slot with what its acceptance records, where a free response
arbiter chooses it at once (R68, R69, R71, R72, R73, R120). The refused slot does not keep the class (R3;
notes/assumptions/29.md). A TABLE-FULL and, where it opens a choice, a grant may follow in the happening (R94, R99;
DEDUCED, notes/assumptions/5.md and 10.md). -/
def Obligations.OverBudgetMarkedOrRejected : Prop :=
  ∀ (offered : Option Request) (r : Request) (c : ClassId) (s : State), s.resetN = .high →
    Presents s offered r → Accepting s → classify s r = .cls c → ReachesBudget (s.cls c) →
    (s.cls c).remaining < chargeOf r →
    ((s.cls c).active.overBudget = .mark → ∃ k t, OverrunSet (s.cls c) k ∧
      exec (.admissionDecision offered) s = .next t ∧
      Follows s ((({ s with
        through := some ⟨r, some c, chargeOf r, s.timebase, true,
          BitVec.ofNat 2 (s.cls c).active.markedUrgency, []⟩
        up := afterHeader r .through } : State)).setCls c { k with
          outstanding := k.outstanding + 1
          live := { k.live with unitsMarked := bump k.live.unitsMarked (chargeOf r) } }) t) ∧
    ((s.cls c).active.overBudget = .reject → ∃ k x v t, OverrunSet (s.cls c) k ∧
      RefusedHolds s r x ∧ exec (.admissionDecision offered) s = .next t ∧
      Arbitrates ((({ s with refused := some x, up := afterHeader r .refusedSlot } : State)).setCls c
        { k with live := { k.live with requestsRefused := bump k.live.requestsRefused 1 } }) v ∧
      Follows s v t)

/-- ADMISSION_DECISION on a request bound for the hold queue, by step 2, 3 or 4 of R70 or over budget under HOLD: with
room it joins as the last entry, uncharged; without room HOLD-FULL is raised and it is refused or stalled (R68, R69,
R70, R71, R74, R75, R76, R120). The refused slot does not keep the class (R3; notes/assumptions/29.md). A TABLE-FULL
and, where it opens a choice, a grant may follow in the happening (R94, R99; DEDUCED, notes/assumptions/5.md and
10.md). -/
def Obligations.JoinOrOverflow : Prop :=
  ∀ (offered : Option Request) (r : Request) (c : ClassId) (k : ClassRec) (s : State),
    s.resetN = .high → Presents s offered r → Accepting s → classify s r = .cls c →
    (SentToQueue (s.cls c) ∧ k = s.cls c) ∨
      (ReachesBudget (s.cls c) ∧ (s.cls c).remaining < chargeOf r ∧
        (s.cls c).active.overBudget = .hold ∧ OverrunSet (s.cls c) k) →
    ((heldTotal s < 48 ∧ (s.cls c).queue.length < (s.cls c).active.holdLimit) →
      ∃ t, exec (.admissionDecision offered) s = .next t ∧
        Follows s (({ s with up := afterHeader r (.held c) } : State).setCls c { k with
          queue := k.queue ++ [⟨r, some c, chargeOf r, s.timebase, false, r.urgency, []⟩]
          live := { k.live with requestsHeld := bump k.live.requestsHeld 1 } }) t) ∧
    (¬ (heldTotal s < 48 ∧ (s.cls c).queue.length < (s.cls c).active.holdLimit) →
      ((s.cls c).active.overflow = .refuse →
        ∃ x v t, RefusedHolds s r x ∧ exec (.admissionDecision offered) s = .next t ∧
          Arbitrates ((({ s with refused := some x, up := afterHeader r .refusedSlot } : State)).setCls c
            { k with
              flags := { k.flags with holdFull := true }
              live := { k.live with requestsRefused := bump k.live.requestsRefused 1 } }) v ∧
          Follows s v t) ∧
      ((s.cls c).active.overflow = .stall →
        ∃ t, exec (.admissionDecision offered) s = .next t ∧
          Follows s (({ s with up := .presented r (some c) } : State).setCls c
            { k with flags := { k.flags with holdFull := true } }) t))

/-- While a condition of R67 fails, ADMISSION_DECISION leaves the presented request undecided, and nothing else changes.
A channel that is taking write data, or on which a stalled request stands, takes no header (R67, R76, R177). -/
def Obligations.UndecidedRequestWaits : Prop :=
  ∀ (offered : Option Request) (s : State), s.resetN = .high →
    (∀ r, Presents s offered r → ¬ Accepting s →
      exec (.admissionDecision offered) s = .next { s with up := .presented r none }) ∧
    (s.up = .free → offered = none → exec (.admissionDecision offered) s = .next s) ∧
    ((∃ p n, s.up = .taking p n) → exec (.admissionDecision offered) s = .next s) ∧
    ((∃ r c, s.up = .presented r (some c)) → exec (.admissionDecision offered) s = .next s)

/-- The new decision of a stalled request is that of the same request presented afresh: it is classified again and goes
through every step of R70 (R2, R76, R77). While a condition of R67 fails there is none (R77). A TABLE-FULL and, where it
opens a choice, a grant may follow in the happening (R94, R99; DEDUCED, notes/assumptions/5.md and 10.md). -/
def Obligations.StalledRequestDecidedAfresh : Prop :=
  ∀ (r : Request) (c : ClassId) (s t : State), s.resetN = .high → s.up = .presented r (some c) →
    (Accepting s → exec (.admissionDecision none) { s with up := .presented r none } = .next t →
      Follows s (redecideAt c s) t ∧ redecide s = redecideAt c s ∧
        ∀ d, d ≠ c → redecideAt d s = s) ∧
    (¬ Accepting s → redecide s = s ∧ ∀ d, redecideAt d s = s)

/-- UPSTREAM_WRITE_DATA_BEAT stores the beat with the accepted WRITE it belongs to, wherever that stands, and the channel
is free after the last (R73, R177, R178). An accepted header leaves the channel free for a READ, and taking exactly the
length of a WRITE in data beats for its place (R177). -/
def Obligations.WriteDataBeatStored : Prop :=
  (∀ (r : Request) (p : Place),
    (r.kind = .read → afterHeader r p = .free) ∧
    (r.kind = .write → afterHeader r p = .taking p (r.len.toNat + 1))) ∧
  ∀ (d : Data) (n : Nat) (s : State), s.resetN = .high →
    (s.up = .taking .refusedSlot n →
      exec (.upstreamWriteDataBeat d) s = .next { s with up := afterBeat .refusedSlot n }) ∧
    (∀ a, s.up = .taking .through n → s.through = some a →
      exec (.upstreamWriteDataBeat d) s = .next { s with
        up := afterBeat .through n
        through := some { a with data := a.data ++ [d] } }) ∧
    (∀ f, s.up = .taking .forwarded n → s.down = some f →
      exec (.upstreamWriteDataBeat d) s = .next { s with
        up := afterBeat .forwarded n
        down := some { f with data := f.data ++ [d] } }) ∧
    (∀ c q a, s.up = .taking (.held c) n → (s.cls c).queue = q ++ [a] →
      exec (.upstreamWriteDataBeat d) s =
        .next (({ s with up := afterBeat (.held c) n } : State).setCls c
          { s.cls c with queue := q ++ [{ a with data := a.data ++ [d] }] })) ∧
    (∀ p, afterBeat p 1 = .free ∧ afterBeat p (n + 2) = .taking p (n + 1)) ∧
    ((∀ p m, s.up ≠ .taking p m) → exec (.upstreamWriteDataBeat d) s = .next s)

/-! ### The downstream request arbiter -/

/-- GRANT_THROUGH_SLOT: the request takes the lowest-numbered FREE entry and leaves under its index as tag, the mark
points at the hold queues, and COUNTED classes count the forward (R45, R78, R95, R107, R108, R113). While a request
stalls both slots are empty (R76), so none is decided here. A TABLE-FULL may follow (R99; DEDUCED,
notes/assumptions/10.md). -/
def Obligations.ThroughSlotForwarded : Prop :=
  ∀ (a : Accepted) (k : EntryIndex) (s : State), s.resetN = .high → StallLeavesSlotsEmpty s →
    s.through = some a → LowestFree s k → s.down = none →
    (s.altMark = .throughSlot ∨ ∀ c, eligible s c = false) →
    ∃ f u t, Allocated s a a.marked f ∧ exec .grantThroughSlot s = .next t ∧
      u = { s.setEntry k (some f) with
        through := none
        altMark := .holdQueues
        down := some (forwardOf k a)
        up := u.up
        classes := u.classes } ∧
      (∀ n, s.up = .taking .through n → u.up = .taking .forwarded n) ∧
      ((∀ n, s.up ≠ .taking .through n) → u.up = s.up) ∧
      (∀ c, ForwardLeaves s.gate.level a.cls (s.cls c) (u.cls c)) ∧ UpToTableFull u t

/-- GRANT_HEAD: the head of the class that round-robin chooses leaves its queue, is charged by its class's state, is
counted outstanding, takes the lowest-numbered FREE entry and leaves with its upstream urgency; a stalled request is
decided again (R45, R97, R107, R108). A TABLE-FULL may follow (R99; DEDUCED, notes/assumptions/10.md). -/
def Obligations.HeadForwarded : Prop :=
  ∀ (c : ClassId) (a : Accepted) (rest : List Accepted) (k : EntryIndex) (s : State),
    s.resetN = .high → nextHead s = some c → (s.cls c).queue = a :: rest → LowestFree s k →
    s.down = none → (s.through = none ∨ s.altMark = .holdQueues) →
    ∃ f m u t, Allocated s a false f ∧
      ((s.cls c).state = .running → m = min a.charge (s.cls c).remaining) ∧
      ((s.cls c).state = .armed → m = (s.cls c).remaining) ∧
      (Unregulated (s.cls c) → m = 0) ∧
      exec .grantHead s = .next t ∧
      u = { s.setEntry k (some f) with
        rrPos := c
        altMark := .throughSlot
        down := some (forwardOf k a)
        up := u.up
        classes := u.classes } ∧
      (∀ n, s.up = .taking (.held c) n → rest = [] → u.up = .taking .forwarded n) ∧
      ((∀ n, s.up ≠ .taking (.held c) n) ∨ rest ≠ [] → u.up = s.up) ∧
      (∀ d, d ≠ c → ForwardLeaves s.gate.level (some c) (s.cls d) (u.cls d)) ∧
      ForwardLeaves s.gate.level (some c) { s.cls c with
        queue := rest
        remaining := (s.cls c).remaining - m
        live := { (s.cls c).live with unitsCharged := bump (s.cls c).live.unitsCharged m }
        outstanding := (s.cls c).outstanding + 1 } (u.cls c) ∧
      UpToTableFull (redecide u) t

/-- The head of a class is eligible exactly as R91 says: an entry is free, fewer than 64 are outstanding, and the release
is a regulated one that fits, an unregulated one, or under flush. -/
def Obligations.HeadEligible : Prop :=
  ∀ (s : State) (c : ClassId), eligible s c = true ↔
    (∃ k, s.entry k = none) ∧ (s.cls c).outstanding < 64 ∧
    ∃ a q, (s.cls c).queue = a :: q ∧
      (((s.cls c).state = .running ∧ a.charge ≤ (s.cls c).remaining ∧
          (s.cls c).outstanding < (s.cls c).active.outLimit) ∨
        Unregulated (s.cls c) ∨ (s.quiesce = .quiescing ∧ s.flush = true))

/-- Where both sources wait, only the one that the alternation mark points at is granted, and a source that waits alone
is granted; after a grant the mark points at the other source (R95). Among the classes, the grant goes to the eligible
head whose class comes first after the position, which then moves to it; a grant of the through slot leaves the
position (R96). That a grant which the mark does not give, or whose source does not wait, leaves the state is the model's
reading of the rows of the grants and of R94 (DEDUCED, notes/assumptions/5.md and 6.md). -/
def Obligations.AlternationAndRoundRobin : Prop :=
  ∀ s : State, s.resetN = .high → s.down = none → (∃ k, s.entry k = none) →
    (∀ c, nextHead s = some c ↔ eligible s c = true ∧
      ∀ d, eligible s d = true → (c - (s.rrPos + 1)).val ≤ (d - (s.rrPos + 1)).val) ∧
    (nextHead s = none ↔ ∀ c, eligible s c = false) ∧
    (s.through ≠ none → (∃ c, eligible s c = true) →
      (s.altMark = .holdQueues → exec .grantThroughSlot s = .next s) ∧
      (s.altMark = .throughSlot → exec .grantHead s = .next s)) ∧
    (s.through ≠ none → (s.altMark = .throughSlot ∨ ∀ c, eligible s c = false) →
      ∃ t, exec .grantThroughSlot s = .next t ∧ t.down ≠ none ∧ t.altMark = .holdQueues ∧
        t.rrPos = s.rrPos) ∧
    (∀ c, nextHead s = some c → (s.altMark = .holdQueues ∨ s.through = none) →
      ∃ t, exec .grantHead s = .next t ∧ t.down ≠ none ∧ t.altMark = .throughSlot ∧ t.rrPos = c) ∧
    (s.through = none → exec .grantThroughSlot s = .next s) ∧
    ((∀ c, eligible s c = false) → exec .grantHead s = .next s)

/-- TABLE-FULL is raised by every happening that brings together a table with no FREE entry and a grant that waits: it
takes the last FREE entry, be it one that it has freed itself, puts a request into the through slot, or makes a head ready
(R99), as RESET_REGULATOR does too by STOPPED, after it has cleared the flags (R92, R153). A command other than TICK and
FILTER_EDGE sets the flag in no other case: it leaves no entry FREE and a grant waiting, and has brought the two together.
A TICK that settles several happenings (R33; notes/assumptions/4.md) may raise it in one of them and end the wait in a
later one, and so may a FILTER_EDGE that several classes take, of which FrameEdge and GateEdge say it copy by copy (R60,
R61).
DEDUCED: the comparison over a whole command, and where RESET_REGULATOR stands (notes/assumptions/10.md). -/
def Obligations.TableFullRaised : Prop :=
  (∀ (c : Instr) (s t : State), exec c s = .next t → c ≠ .pinReset → RaisesTableFull s t) ∧
  ∀ (c : Instr) (s t : State), exec c s = .next t → (∀ f g later, c ≠ .tick f g later) →
    (∀ line taking, c ≠ .filterEdge line taking) → SetsTableFullOnly s t

/-- DOWNSTREAM_REQUEST_TAKEN: the memory controller takes the beat that is offered, the header first and then each write
data beat that has reached the channel, and the last one frees the channel, where the next choice may follow; while a
data beat is still to come nothing is offered (R94, R175, R178). LAST_BEAT_TAKEN_UPSTREAM: the upstream partner takes
the held beat of a live response; the last one frees the arbiter, which chooses again, and after another nothing is
offered until the next beat comes (R120, R180). The model's choices: both rows stand for the taking of every such beat
(notes/assumptions/14.md and 15.md), and leave the state where none is offered (notes/assumptions/6.md). A TABLE-FULL
and, where it opens a choice, a grant may follow in the happening (R94, R99; DEDUCED, notes/assumptions/5.md and
10.md). -/
def Obligations.ChannelsFreed : Prop :=
  ∀ s : State, s.resetN = .high →
    (∀ h d, s.down = some ⟨h, d, 0⟩ →
      downRequestOffer s = some (.header (match h.kind with | .read => 0 | .write => 1) h.address h.len
        (BitVec.ofNat 6 h.initiator.val) (BitVec.ofNat 6 h.tag.val) h.urgency) ∧
      (h.kind = .read → ∃ t, exec .downstreamRequestTaken s = .next t ∧ Follows s { s with down := none } t) ∧
      (h.kind = .write → exec .downstreamRequestTaken s = .next { s with down := some ⟨h, d, 1⟩ })) ∧
    (∀ h l x r, s.down = some ⟨h, l ++ x :: r, l.length + 1⟩ → h.kind = .write →
      downRequestOffer s = some (.data x) ∧
      (l.length < h.len.toNat →
        exec .downstreamRequestTaken s = .next { s with down := some ⟨h, l ++ x :: r, l.length + 2⟩ }) ∧
      (l.length = h.len.toNat →
        ∃ t, exec .downstreamRequestTaken s = .next t ∧ Follows s { s with down := none } t)) ∧
    (∀ h d j, s.down = some ⟨h, d, j + 1⟩ → d.length ≤ j →
      downRequestOffer s = none ∧ exec .downstreamRequestTaken s = .next s) ∧
    (s.down = none → downRequestOffer s = none ∧ exec .downstreamRequestTaken s = .next s) ∧
    (∀ k tag b st, s.upResp = .live k tag (some b) st true → ∃ v t,
      Arbitrates { s with upResp := .free } v ∧ exec .lastBeatTakenUpstream s = .next t ∧
        Follows s v t) ∧
    (∀ k tag b st, s.upResp = .live k tag (some b) st false → ∃ t,
      t = { s with upResp := .live k tag none st false } ∧
        exec .lastBeatTakenUpstream s = .next t ∧ upResponseOffer t = none) ∧
    ((∀ k tag b st e, s.upResp ≠ .live k tag (some b) st e) →
      exec .lastBeatTakenUpstream s = .next s)

/-! ### Responses -/

/-- UPSTREAM_RESPONSE_CHOICE: the first beat of a live response comes to wait downstream, and the free arbiter takes the
refused slot first, then the owed TIMEOUT response of lowest index, and offers its first beat: zero data, its status
(3 REFUSED, 4 TIMEOUT), its upstream tag and, on the last beat, the mark. A busy arbiter makes no choice
(R109, R120, R121, R176). That the command presents the beat, on an open channel only, is the model's choice
(notes/assumptions/31.md). -/
def Obligations.GeneratedResponseChosen : Prop :=
  (∀ (p : Option DownBeat) (s : State), s.resetN = .high →
    (∀ b f, p = some b → s.entry b.tag = some f → f.phase ≠ .streaming) →
    ∃ d, BeatStands p s d ∧
      (s.upResp ≠ .free → exec (.upstreamResponseChoice p) s = .next { s with standing := d }) ∧
      (s.upResp = .free → ∀ x, s.refused = some x → ∃ t, exec (.upstreamResponseChoice p) s = .next t ∧
        t = { s with
          standing := d
          upResp := .generated .refusedSlot x.tag (generatedBeats x.kind x.len) } ∧
        upResponseOffer t = some ⟨x.tag, 3, 0, decide (generatedBeats x.kind x.len = 1)⟩) ∧
      (s.upResp = .free → s.refused = none → ∀ k f, s.entry k = some f → f.owed = true →
        (∀ j g, j < k → s.entry j = some g → g.owed = false) →
        ∃ t, exec (.upstreamResponseChoice p) s = .next t ∧
          t = { s with
            standing := d
            upResp := .generated (.owedTimeout k) f.tag (generatedBeats f.kind f.len) } ∧
          upResponseOffer t = some ⟨f.tag, 4, 0, decide (generatedBeats f.kind f.len = 1)⟩) ∧
      (s.upResp = .free → s.refused = none → NothingOwed s → ¬ LiveWaits { s with standing := d } →
        exec (.upstreamResponseChoice p) s = .next { s with standing := d })) ∧
  ∀ len : BitVec 4, generatedBeats .read len = len.toNat + 1 ∧ generatedBeats .write len = 1

/-- UPSTREAM_RESPONSE_CHOICE with no generated response waiting passes the live response whose first beat waits
downstream, or is presented now: the first beat of a READ is held upstream under the upstream tag and the entry is
STREAMING; a WRITE acknowledgement, or a READ of one beat, ends the request. The held beat is offered with its 3-bit
status, and the downstream status 3 is DATA-ERROR (R110, R111, R112, R120, R176, R179, R180). Where a beat waits
already, the operand is not used (notes/assumptions/31.md). A TABLE-FULL and, where it opens a choice, a grant may
follow in the happening (R94, R99; DEDUCED, notes/assumptions/5.md and 10.md). -/
def Obligations.LiveResponseBegins : Prop :=
  ∀ (p : Option DownBeat) (b : DownBeat) (f : Flight) (s : State), s.resetN = .high →
    s.upResp = .free → s.refused = none → NothingOwed s →
    s.standing = some b ∨ (s.standing = none ∧ s.discard = none ∧ p = some b) →
    s.entry b.tag = some f → f.phase = .pending →
    (∃ v t, LiveBegins b f { s with standing := none } v ∧
      exec (.upstreamResponseChoice p) s = .next t ∧ Follows s v t ∧
      (f.kind = .read → b.last = false → t = v)) ∧
    (∀ k beat st e, upResponseOffer (holding k beat st e s) =
      some ⟨beat.tag, upStatusCode beat.status, beat.data, beat.last⟩) ∧
    (upStatusCode .okay = 0 ∧ upStatusCode .dataError = 1 ∧ upStatusCode .decodeError = 2) ∧
    (liveStatus 0 = .okay ∧ liveStatus 1 = .dataError ∧ liveStatus 2 = .decodeError ∧
      liveStatus 3 = .dataError)

/-- LIVE_RESPONSE_BEAT: the next beat is held upstream under the same upstream tag, in place of the one that the
upstream partner has taken, and the last one ends the request with the first status other than OKAY (R110, R112, R179).
That the command takes a beat still held with it is DEDUCED (notes/assumptions/15.md). A TABLE-FULL and, where it opens
a choice, a grant may follow in the happening (R94, R99; DEDUCED, notes/assumptions/5.md and 10.md). -/
def Obligations.LiveResponseContinues : Prop :=
  ∀ (b : DownBeat) (k : EntryIndex) (tag : BitVec 8) (held : Option UpBeat) (st : RespStatus) (f : Flight)
    (s : State), s.resetN = .high → s.upResp = .live k tag held st false → s.entry k = some f →
    f.phase = .streaming →
    (b.last = false → exec (.liveResponseBeat b) s =
      .next (holding k ⟨tag, liveStatus b.status, b.data, false⟩
        (if st = .okay then liveStatus b.status else st) false s)) ∧
    (b.last = true → ∃ v t,
      EndOfLife f (if st = .okay then liveStatus b.status else st)
        ((holding k ⟨tag, liveStatus b.status, b.data, true⟩
          (if st = .okay then liveStatus b.status else st) true s).setEntry k none) v ∧
      exec (.liveResponseBeat b) s = .next t ∧ Follows s v t)

/-- GENERATED_RESPONSE_BEAT: each beat is taken on its own; the last one empties the refused slot, or clears the
owed-timeout mark and frees an entry whose late response has been consumed, the drain is tested, and the arbiter, free
again, chooses in the same happening (R119, R120, R121, R122, R157), before a grant that a freed entry opens: a DESIGN
CHOICE (notes/assumptions/32.md). A TABLE-FULL and, where it opens a choice, a grant
may follow in the happening (R94, R99; DEDUCED, notes/assumptions/5.md and 10.md). -/
def Obligations.GeneratedBeatTaken : Prop :=
  ∀ (tag : BitVec 8) (s : State), s.resetN = .high →
    (∀ source n, s.upResp = .generated source tag (n + 2) →
      exec .generatedResponseBeat s = .next { s with upResp := .generated source tag (n + 1) }) ∧
    (s.upResp = .generated .refusedSlot tag 1 → ∃ v t,
      Arbitrates (testDrain { s with refused := none, upResp := .free }) v ∧
      exec .generatedResponseBeat s = .next t ∧ Follows s v t) ∧
    (∀ k f, s.upResp = .generated (.owedTimeout k) tag 1 → s.entry k = some f →
      f.phase = .abandoned →
      ∃ v t, exec .generatedResponseBeat s = .next t ∧ Follows s v t ∧
        (f.lateConsumed = false → Arbitrates (testDrain (({ s with upResp := .free } : State).setEntry k
          (some { f with owed := false }))) v) ∧
        (f.lateConsumed = true → Arbitrates (testDrain (({ s with upResp := .free } : State).setEntry k
          none)) v)) ∧
    ((∀ source x n, s.upResp ≠ .generated source x n) → exec .generatedResponseBeat s = .next s)

/-- DEADLINE abandons the entry exactly when it is PENDING and its deadline is the present timebase, and a free response
arbiter chooses in the same happening (R113, R114, R116, R120), before a grant that the fall of the count opens: a DESIGN CHOICE
(notes/assumptions/32.md). A TABLE-FULL and, where it opens a choice, a grant may
follow in the happening (R94, R99; DEDUCED, notes/assumptions/5.md and 10.md). -/
def Obligations.DeadlineAbandons : Prop :=
  ∀ (k : EntryIndex) (s : State), s.resetN = .high →
    (∀ f, s.entry k = some f → f.phase = .pending → f.deadline = some s.timebase →
      ∃ v t, Abandons k f s v ∧ exec (.deadline k) s = .next t ∧ Follows s v t) ∧
    ((∀ f, s.entry k = some f → f.phase ≠ .pending ∨ f.deadline ≠ some s.timebase) →
      exec (.deadline k) s = .next s)

/-- ABANDON abandons a PENDING entry and answers OK; any other entry is refused with STATE and an object above 3Fh with
BAD-OBJECT (R114, R115, R120). A free response arbiter chooses before a grant that the fall of the count opens: a DESIGN
CHOICE (notes/assumptions/32.md). A TABLE-FULL and, where it opens a choice, a grant may follow in the happening (R94, R99;
DEDUCED, notes/assumptions/5.md and 10.md). -/
def Obligations.AbandonCommand : Prop :=
  ∀ (o f : Byte) (v : Word32) (s : State), Listening s →
    (∀ (k : EntryIndex) (e : Flight), o.toNat = k.val → s.entry k = some e → e.phase = .pending →
      ∃ u t, Abandons k e s u ∧ exec (.abandon o f v) s = .next t ∧ FollowsPort s u t ∧
        Answers t 0x30 .ok 0) ∧
    (∀ k : EntryIndex, o.toNat = k.val → (∀ e, s.entry k = some e → e.phase ≠ .pending) →
      ∃ t, exec (.abandon o f v) s = .next t ∧ RefusedWith s t 0x30 .stateRefused) ∧
    (64 ≤ o.toNat →
      ∃ t, exec (.abandon o f v) s = .next t ∧ RefusedWith s t 0x30 .badObject)

/-- LATE_RESPONSE: the first beat, which may have waited downstream since before the abandonment, raises LATE at the
recorded class and counts it; the last beat, the first one for a WRITE, sets the late-consumed mark and frees an entry
whose TIMEOUT response has gone (R109, R117, R119, R179). The entry's first-beat time stays absent, which R106 leaves open
(DESIGN CHOICE, notes/assumptions/33.md). A beat that waits is used in place of the operand
(notes/assumptions/31.md). A TABLE-FULL and, where it opens a choice, a grant may follow in the happening (R94, R99;
DEDUCED, notes/assumptions/5.md and 10.md). -/
def Obligations.LateResponseDiscarded : Prop :=
  ∀ (b : DownBeat) (s : State), s.resetN = .high →
    (∀ p f, FirstBeatIs s b p → s.discard = none → livePassing s = false → s.entry p.tag = some f →
      f.phase = .abandoned → f.lateConsumed = false →
      ∃ u, (f.cls = none → u = { s with standing := none }) ∧
        (∀ c, f.cls = some c → u = ({ s with standing := none } : State).setCls c { s.cls c with
          live := { (s.cls c).live with lateResponses := bump (s.cls c).live.lateResponses 1 }
          flags := { (s.cls c).flags with late := true } }) ∧
        ((f.kind = .write ∨ p.last = true) → f.owed = true →
          exec (.lateResponse b) s =
            .next (u.setEntry p.tag (some { f with lateConsumed := true }))) ∧
        ((f.kind = .write ∨ p.last = true) → f.owed = false →
          ∃ t, exec (.lateResponse b) s = .next t ∧ Follows s (u.setEntry p.tag none) t) ∧
        (f.kind = .read → p.last = false →
          exec (.lateResponse b) s = .next { u with discard := some (.late p.tag) })) ∧
    (∀ k f, s.discard = some (.late k) → s.entry k = some f → f.phase = .abandoned →
      (b.last = false → exec (.lateResponse b) s = .next s) ∧
      (b.last = true → f.owed = true → exec (.lateResponse b) s =
        .next (({ s with discard := none } : State).setEntry k
          (some { f with lateConsumed := true }))) ∧
      (b.last = true → f.owed = false → ∃ t, exec (.lateResponse b) s = .next t ∧
        Follows s (({ s with discard := none } : State).setEntry k none) t))

/-- STRAY_RESPONSE: the first beat raises STRAY and nothing else; the response is discarded to its last beat, or to its
first where the named entry is an ABANDONED WRITE (R118, R179). A beat that waits is used in place of the operand
(notes/assumptions/31.md). -/
def Obligations.StrayResponseDiscarded : Prop :=
  ∀ (b : DownBeat) (s : State), s.resetN = .high →
    (∀ p, FirstBeatIs s b p → s.discard = none → livePassing s = false →
      (s.entry p.tag = none → exec (.strayResponse b) s = .next { s with
        standing := none
        gflags := { s.gflags with stray := true }
        discard := if p.last then none else some .stray }) ∧
      ∀ f, s.entry p.tag = some f → f.phase = .abandoned → f.lateConsumed = true →
        exec (.strayResponse b) s = .next { s with
          standing := none
          gflags := { s.gflags with stray := true }
          discard := if p.last = true ∨ f.kind = .write then none else some .stray }) ∧
    (s.discard = some .stray → exec (.strayResponse b) s =
      .next { s with discard := if b.last then none else some .stray })

/-! ### Measurement -/

/-- A completion notice counts the completion, samples the wait of an answered request, the stream of an answered READ
and the hold of every request, and leaves the other fields of the record; a TIMEOUT notice, which has no first beat, counts
a timeout and samples the hold alone (R114, R129, R131, R132). A sampled wait falls in bin 0 below edge 0, in bin 7 at or
above edge 6, and in bin i between edges i-1 and i (R133). A 32-bit count stops at 4294967295 (R130). -/
def Obligations.NoticeUpdatesRecord : Prop :=
  (∀ (edges : Vector Nat 7) (f : Flight) (now : Time) (st : Stats) (status : RespStatus),
    status ≠ .refused →
    ∃ u, u = noticeStats edges f status now st ∧
      u = { st with
        completions := u.completions
        errorCompletions := u.errorCompletions
        timeouts := u.timeouts
        waitMin := u.waitMin
        waitMax := u.waitMax
        waitSum := u.waitSum
        bins := u.bins
        holdMax := max (span f.arrival f.forwardTime) st.holdMax
        streamMax := u.streamMax } ∧
      u.completions = (if status = .okay then bump st.completions 1 else st.completions) ∧
      u.timeouts = (if status = .timeout then bump st.timeouts 1 else st.timeouts) ∧
      u.errorCompletions = (if status = .dataError ∨ status = .decodeError
        then bump st.errorCompletions 1 else st.errorCompletions) ∧
      (status = .timeout → u.waitMin = st.waitMin ∧ u.waitMax = st.waitMax ∧
        u.waitSum = st.waitSum ∧ u.bins = st.bins ∧ u.streamMax = st.streamMax) ∧
      (status ≠ .timeout → ∀ b, f.firstBeat = some b →
        u.waitMin = min (span f.forwardTime b) st.waitMin ∧
        u.waitMax = max (span f.forwardTime b) st.waitMax ∧
        u.waitSum = min (st.waitSum + span f.forwardTime b) 281474976710655 ∧
        (∀ i : Fin 8, u.bins[i] = if binOf edges (span f.forwardTime b) = i
          then bump st.bins[i] 1 else st.bins[i]) ∧
        (f.kind = .read → u.streamMax = max (span b now) st.streamMax) ∧
        (f.kind = .write → u.streamMax = st.streamMax))) ∧
  (∀ (s : State) (w : Nat) (i : Fin 8), EdgesLegal s → (binOf s.edges w = i ↔
    (∀ j : Fin 7, j.val = i.val → w < s.edges[j]) ∧
      ∀ j : Fin 7, j.val + 1 = i.val → s.edges[j] ≤ w)) ∧
  ∀ count n : Nat, bump count n = min (count + n) 4294967295

/-- A completion notice of a class with a capture threshold writes a record for a TIMEOUT and for a wait at or above the
threshold; a full log drops it and counts it as lost (R139, R140). Its intervals are differences of timebase values
modulo 2^32, saturated at 16777215: the wait runs to the first beat, or to the abandonment for TIMEOUT, and the stream is
absent for a WRITE and for TIMEOUT (R129, R139). -/
def Obligations.CaptureLogged : Prop :=
  (∀ (c : ClassId) (f : Flight) (status : RespStatus) (s : State) (u : State),
    u = s.setCls c { s.cls c with
      live := noticeStats s.edges f status s.timebase (s.cls c).live } →
    (((s.cls c).active.captureThreshold = 0 ∨ (status ≠ .timeout ∧
        waitTicks f status s.timebase < (s.cls c).active.captureThreshold)) →
      completionNotice c f status s = u) ∧
    ((s.cls c).active.captureThreshold ≠ 0 → (status = .timeout ∨
        (s.cls c).active.captureThreshold ≤ waitTicks f status s.timebase) →
      (s.log.length < 32 → completionNotice c f status s =
        ({ u with log := s.log ++ [{
          cls := c
          initiator := f.initiator
          tag := f.tag
          kind := f.kind
          address := f.address
          len := f.len
          hold := span f.arrival f.forwardTime
          wait := waitTicks f status s.timebase
          stream := streamTicks f status s.timebase
          status := status
          marked := f.marked
          completion := s.timebase }] } : State).setCls c
            { u.cls c with flags := { (u.cls c).flags with capture := true } }) ∧
      (32 ≤ s.log.length → completionNotice c f status s = { u with
        lost := min (s.lost + 1) 65535
        gflags := { s.gflags with captureLost := true } }))) ∧
  (∀ a b : Time, span a b = min ((b.toNat + 4294967296 - a.toNat) % 4294967296) 16777215) ∧
  (∀ (f : Flight) (now : Time), waitTicks f .timeout now = span f.forwardTime now ∧
    streamTicks f .timeout now = none) ∧
  ∀ (f : Flight) (status : RespStatus) (b now : Time), status ≠ .timeout → f.firstBeat = some b →
    waitTicks f status now = span f.forwardTime b ∧
    (f.kind = .read → streamTicks f status now = some (span b now)) ∧
    (f.kind = .write → streamTicks f status now = none)

/-! ### Events and quiesce -/

/-- READ_EVENTS answers with the flags of the set, each in the place of its kind number, and clears exactly these
(R149, R165). -/
def Obligations.EventsReadAndCleared : Prop :=
  ∀ (o f : Byte) (v : Word32) (s : State), Listening s →
    (∀ n : ClassId, o.toNat = n.val → ∃ t w, exec (.readEvents o f v) s = .next t ∧
      OnlyPort (s.setCls n { s.cls n with flags := noClassFlags }) t ∧ Answers t 0x22 .ok w ∧
      (∀ kind, w.getLsbD (classKindNumber kind).val = classFlag (s.cls n).flags kind) ∧
      ∀ i, 7 ≤ i → w.getLsbD i = false) ∧
    (o = 0x36 → ∃ t w, exec (.readEvents o f v) s = .next t ∧
      OnlyPort { s with gflags := noGlobalFlags } t ∧ Answers t 0x22 .ok w ∧
      (∀ kind, w.getLsbD (globalKindNumber kind).val = globalFlag s.gflags kind) ∧
      ∀ i, i < 7 ∨ 11 ≤ i → w.getLsbD i = false) ∧
    (16 ≤ o.toNat → o ≠ 0x36 →
      ∃ t, exec (.readEvents o f v) s = .next t ∧ RefusedWith s t 0x22 .badObject)

/-- ALERT_N is low exactly while RESET_N is high and some flag is set whose kind has its alert enable on, and the flags
byte of a response shows it (R147). -/
def Obligations.AlertLine : Prop :=
  ∀ s : State, (alertN s = .low ↔ s.resetN = .high ∧
    ((∃ (n : ClassId) (kind : ClassKind), classFlag (s.cls n).flags kind = true ∧
        s.enables[classKindNumber kind] = true) ∨
      ∃ kind : GlobalKind, globalFlag s.gflags kind = true ∧
        s.enables[globalKindNumber kind] = true)) ∧
    ((responseFlags s).getLsbD 0 = true ↔ alertN s = .low)

/-- ALERT_ENABLE_WRITE turns one enable on or off and leaves every flag; LOST_COUNT_WRITE takes the value 0 alone
(R142, R148). -/
def Obligations.AlertEnableAndLostCount : Prop :=
  ∀ (kind : Fin 11) (v : Word32) (s : State), Listening s →
    (v = 0 ∨ v = 1 → ∃ t, exec (.alertEnableWrite kind v) s = .next t ∧
      OnlyPort { s with enables := s.enables.set kind.val (decide (v = 1)) kind.isLt } t ∧
      Answers t 0x02 .ok 0) ∧
    (v ≠ 0 → v ≠ 1 → ∃ t, exec (.alertEnableWrite kind v) s = .next t ∧
      RefusedWith s t 0x02 .badValue) ∧
    (v = 0 → ∃ t, exec (.lostCountWrite v) s = .next t ∧ OnlyPort { s with lost := 0 } t ∧
      Answers t 0x02 .ok 0) ∧
    (v ≠ 0 → ∃ t, exec (.lostCountWrite v) s = .next t ∧ RefusedWith s t 0x02 .badValue)

/-- QUIESCE in NORMAL makes the device QUIESCING with the flush option, or QUIESCED at once when the drain is complete;
QUIESCED raises its flag where the drain is complete and changes nothing else (R155). The drain is complete exactly
under the four conditions of R157. A TABLE-FULL and, where it opens a choice, a grant may follow in the happening (R94,
R99; DEDUCED, notes/assumptions/5.md and 10.md). -/
def Obligations.QuiesceAndDrain : Prop :=
  ∀ (o f : Byte) (v : Word32) (s : State), Listening s →
    (v = 0 ∨ v = 1 → s.quiesce = .normal → drained s = false →
      ∃ t, exec (.quiesce o f v) s = .next t ∧
        FollowsPort s { s with quiesce := .quiescing, flush := decide (v = 1) } t ∧
        Answers t 0x31 .ok 0) ∧
    (v = 0 ∨ v = 1 → s.quiesce = .normal → drained s = true →
      ∃ t, exec (.quiesce o f v) s = .next t ∧
        OnlyPort { s with
          quiesce := .quiesced
          flush := decide (v = 1)
          gflags := { s.gflags with quiesced := true } } t ∧ Answers t 0x31 .ok 0) ∧
    (v = 0 ∨ v = 1 → s.quiesce ≠ .normal →
      ∃ t, exec (.quiesce o f v) s = .next t ∧ RefusedWith s t 0x31 .stateRefused) ∧
    (v ≠ 0 → v ≠ 1 →
      ∃ t, exec (.quiesce o f v) s = .next t ∧ RefusedWith s t 0x31 .badValue) ∧
    (s.quiesce = .quiescing → drained s = true → exec .quiesced s = .next { s with
      quiesce := .quiesced
      gflags := { s.gflags with quiesced := true } }) ∧
    (s.quiesce ≠ .quiescing ∨ drained s = false → exec .quiesced s = .next s) ∧
    (drained s = true ↔ (∀ n, (s.cls n).queue = []) ∧ s.through = none ∧ s.refused = none ∧
      ∀ k e, s.entry k = some e → e.phase = .abandoned ∧ e.owed = false)

/-- RESUME makes the device NORMAL with flush off and decides the presented request, stalled or not, in the same
happening; in NORMAL it is refused (R77, R84, R160). That a request not decided before is decided in RESUME's own
happening is DEDUCED (notes/assumptions/21.md). A TABLE-FULL and, where it opens a choice, a grant may follow in the
happening (R94, R99; DEDUCED, notes/assumptions/5.md and 10.md). -/
def Obligations.ResumeDecides : Prop :=
  ∀ (o f : Byte) (v : Word32) (s : State), Listening s →
    (s.quiesce ≠ .normal → ∃ t, exec (.resume o f v) s = .next t ∧
      FollowsPort s (decidePresented { s with quiesce := .normal, flush := false }) t ∧
      Answers t 0x32 .ok 0) ∧
    (s.quiesce = .normal →
      ∃ t, exec (.resume o f v) s = .next t ∧ RefusedWith s t 0x32 .stateRefused) ∧
    (∀ r c, s.up = .presented r c → Accepting s → decidePresented s = decideRequest r s) ∧
    ((∀ r c, s.up ≠ .presented r c) ∨ ¬ Accepting s → decidePresented s = s)

/-! ### The management port -/

/-- NOP answers OK with value 0 and has no other effect, whatever its object, field byte and value word, in every state of
the device; its frame carries out the response held before it, and the response that it leaves has the echoed code 00h
and a flags byte that shows ALERT_N and the quiesce state at its close (R168). -/
def Obligations.NopAnswersOk : Prop :=
  ∀ (o f : Byte) (v : Word32) (s : State), Listening s →
    (∃ t, exec (.nop o f v) s = .next t ∧ OnlyPort s t ∧ Answers t 0x00 .ok 0 ∧
      (t.port.held.flags.getLsbD 0 = true ↔ alertN t = .low) ∧
      (t.port.held.flags.getLsbD 1 = true ↔ t.quiesce ≠ .normal)) ∧
    (s.port.phase = .idle → ∃ t u, exec .frameOpen s = .next t ∧ OnlyPort s t ∧
      t.port.mdo = some s.port.held ∧ exec (.nop o f v) t = .next u ∧ OnlyPort s u ∧
      Answers u 0x00 .ok 0)

/-- FRAME_OPEN drives MDO with the held response and counts bits from none, and MDO carries the status, the echoed code,
the value and the flags byte, most significant bit first, then the check byte of these 56 bits, and 0 after the
sixty-fourth bit (R162, R165). The check register starts at 00h; each bit shifts it left, and sets it against 07h if the
dropped top bit differs from the bit (R164). A frame of a wrong number of bits leaves FRAMING, one with a wrong check byte
CHECK, and nothing else changes (R163). The rise of an MCS_N that has been low since the release of RESET_N closes no
frame (R173). -/
def Obligations.FramesOpenAndFail : Prop :=
  (∀ (bits : List Bool) (s : State), s.resetN = .high →
    (s.port.phase = .idle → exec .frameOpen s = .next { s with
      port := ⟨.openFrame, [], some s.port.held, s.port.held⟩ }) ∧
    (s.port.phase ≠ .idle → exec .frameOpen s = .next s) ∧
    (s.port.phase ≠ .ignoring → bits.length ≠ 64 → ∀ e : Byte, (bits.length < 8 → e = 0) →
      (8 ≤ bits.length → ∀ i : Fin 8, bits[i.val]? = some (e.getMsbD i.val)) →
      ∃ t, exec (.frameClose bits) s = .next t ∧ RefusedWith s t e .framing) ∧
    (s.port.phase ≠ .ignoring → ∀ c o f v3 v2 v1 v0 k : Byte,
      bits = [c, o, f, v3, v2, v1, v0, k].flatMap byteBits →
      k ≠ checkByte ([c, o, f, v3, v2, v1, v0].flatMap byteBits) →
      ∃ t, exec (.frameClose bits) s = .next t ∧ RefusedWith s t c .checkFailed) ∧
    (s.port.phase = .ignoring → exec (.frameClose bits) s =
      .next { s with port := { s.port with phase := .idle } })) ∧
  (checkByte [] = 0 ∧ ∀ (bits : List Bool) (b : Bool), checkByte (bits ++ [b]) =
    if (checkByte bits).getMsbD 0 = b then checkByte bits <<< 1 else (checkByte bits <<< 1) ^^^ 0x07) ∧
  (∀ (s : State) (r : Response), s.resetN = .high → s.port.mdo = some r →
    (∀ i : Fin 8, mdoPin s i.val = some ((statusByte r.status).getMsbD i.val) ∧
      mdoPin s (8 + i.val) = some (r.echo.getMsbD i.val) ∧
      mdoPin s (48 + i.val) = some (r.flags.getMsbD i.val) ∧
      ∀ l : List Bool, l.map some = (List.range 56).map (mdoPin s) →
        mdoPin s (56 + i.val) = some ((checkByte l).getMsbD i.val)) ∧
    (∀ i : Fin 32, mdoPin s (16 + i.val) = some (r.value.getMsbD i.val)) ∧
    ∀ i, 64 ≤ i → mdoPin s i = some false) ∧
  [Status.ok, .empty, .badCommand, .badObject, .badField, .badValue, .stateRefused, .checkFailed,
    .framing].map statusByte = [0x00, 0x01, 0x10, 0x11, 0x12, 0x13, 0x14, 0x20, 0x21]

/-- The close of a frame whose check byte matches runs the command of its code with its object, field and value, for each
of the fifteen codes, and any other code is refused with BAD-COMMAND (R163, R165, R167). That a row of a command stands for
its whole frame is the model's choice (notes/assumptions/11.md). -/
def Obligations.FrameCloseRunsItsCommand : Prop :=
  ∀ (c o f : Byte) (v : Word32) (s : State),
    (c = 0x00 → SameNext (.frameClose (commandBits c o f v)) (.nop o f v) s) ∧
    (c = 0x01 → SameNext (.frameClose (commandBits c o f v)) (.readField o f v) s) ∧
    (c = 0x02 → SameNext (.frameClose (commandBits c o f v)) (.writeField o f v) s) ∧
    (c = 0x10 → SameNext (.frameClose (commandBits c o f v)) (.commit o f v) s) ∧
    (c = 0x11 → SameNext (.frameClose (commandBits c o f v)) (.discardPending o f v) s) ∧
    (c = 0x12 → SameNext (.frameClose (commandBits c o f v)) (.start o f v) s) ∧
    (c = 0x13 → SameNext (.frameClose (commandBits c o f v)) (.stop o f v) s) ∧
    (c = 0x14 → SameNext (.frameClose (commandBits c o f v)) (.setRepeat o f v) s) ∧
    (c = 0x20 → SameNext (.frameClose (commandBits c o f v)) (.snapshot o f v) s) ∧
    (c = 0x21 → SameNext (.frameClose (commandBits c o f v)) (.popCapture o f v) s) ∧
    (c = 0x22 → SameNext (.frameClose (commandBits c o f v)) (.readEvents o f v) s) ∧
    (c = 0x30 → SameNext (.frameClose (commandBits c o f v)) (.abandon o f v) s) ∧
    (c = 0x31 → SameNext (.frameClose (commandBits c o f v)) (.quiesce o f v) s) ∧
    (c = 0x32 → SameNext (.frameClose (commandBits c o f v)) (.resume o f v) s) ∧
    (c = 0x3F → SameNext (.frameClose (commandBits c o f v)) (.resetRegulator o f v) s) ∧
    (Listening s → c ∉ ([0x00, 0x01, 0x02, 0x10, 0x11, 0x12, 0x13, 0x14, 0x20, 0x21, 0x22, 0x30, 0x31,
        0x32, 0x3F] : List Byte) →
      ∃ t, exec (.frameClose (commandBits c o f v)) s = .next t ∧ RefusedWith s t c .badCommand)

/-- READ_FIELD answers every item of the catalogue of 11 section 11.5 with its value, an absent one with EMPTY, a field
that names no item with BAD-FIELD and an object outside the catalogue with BAD-OBJECT, and changes nothing but the port. A
class map word, the event summary and an in-flight entry word have their layouts of R165, and the enumerated items have
the codes of 02 section 2.3 (R18), R34, R54, R57, R64 and R165
(R20, R137, R141, R142, R148, R151, R169, R171). -/
def Obligations.ReadFieldCatalogue : Prop :=
  (∀ (o f : Byte) (s : State), Listening s →
    (catalogue s o = none → Reads s o f .badObject 0) ∧
    ∀ runs, catalogue s o = some runs →
      (∀ run ∈ runs, ∀ i, f.toNat = run.1 + i →
        (∀ w, run.2[i]? = some (some w) → Reads s o f .ok w) ∧
        (run.2[i]? = some none → Reads s o f .empty 0)) ∧
      ((∀ run ∈ runs, f.toNat < run.1 ∨ run.1 + run.2.length ≤ f.toNat) → Reads s o f .badField 0)) ∧
  (∀ (e : MapEntry) (n : ClassId),
    (e.read = .cls n → ((mapEntryWord e).extractLsb' 0 8).toNat = n.val) ∧
    (e.read = .bypass → (mapEntryWord e).extractLsb' 0 8 = 0x80) ∧
    (e.write = .cls n → ((mapEntryWord e).extractLsb' 8 8).toNat = n.val) ∧
    (e.write = .bypass → (mapEntryWord e).extractLsb' 8 8 = 0x80) ∧
    (mapEntryWord e).extractLsb' 16 16 = 0) ∧
  (∀ s : State,
    (∀ n : ClassId, (eventSummary s).getLsbD n.val = true ↔
      ∃ kind, classFlag (s.cls n).flags kind = true) ∧
    ((eventSummary s).getLsbD 16 = true ↔ ∃ kind, globalFlag s.gflags kind = true) ∧
    (eventSummary s).extractLsb' 17 15 = 0) ∧
  entryWord none = 0x00008000 ∧
  (∀ (f : Flight) (n : ClassId),
    ((entryWord (some f)).extractLsb' 0 8).toNat =
      (match f.phase with | .pending => 1 | .streaming => 2 | .abandoned => 3) ∧
    (f.cls = some n → ((entryWord (some f)).extractLsb' 8 8).toNat = n.val) ∧
    (f.cls = none → (entryWord (some f)).extractLsb' 8 8 = 0x80) ∧
    (entryWord (some f)).getLsbD 16 = f.owed ∧ (entryWord (some f)).getLsbD 17 = f.lateConsumed ∧
    (entryWord (some f)).extractLsb' 18 14 = 0) ∧
  [Mode.timed, .synced, .counted, .gated].map modeCode = [0, 1, 2, 3] ∧
  [OverBudget.hold, .mark, .reject].map overBudgetCode = [0, 1, 2] ∧
  [Overflow.stall, .refuse].map overflowCode = [0, 1] ∧
  [Polarity.risingHigh, .fallingLow].map polarityCode = [0, 1] ∧
  [SyncEnd.length, .edgeOrLength].map syncEndCode = [0, 1] ∧
  [ClassState.stopped, .armed, .running, .suspended, .expired].map stateCode = [0, 1, 2, 3, 4] ∧
  [RespStatus.okay, .dataError, .decodeError, .timeout].map statusCode = [0, 1, 2, 3] ∧
  [Kind.read, .write].map kindCode = [0, 1] ∧
  [false, true].map boolWord = [0, 1] ∧
  [Level.low, .high].map levelWord = [0, 1] ∧
  [TickDiv.d1, .d4, .d16, .d64, .d256].map tickClocks = [1, 4, 16, 64, 256] ∧
  [SampleInterval.off, .i1, .i4, .i16].map intervalTicks = [0, 1, 4, 16]

/-- WRITE_FIELD on a writable item is the row of that item; a read-only item and a field that names none are refused with
BAD-FIELD, an object outside the catalogue with BAD-OBJECT (R19, R142, R148, R167, R170, R171). -/
def Obligations.WriteFieldIsItsRow : Prop :=
  ∀ (o f : Byte) (v : Word32) (s : State),
    (∀ (n : ClassId) (i : Fin 14), o.toNat = n.val → f.toNat = i.val →
      SameNext (.writeField o f v) (.stagingWrite n i v) s) ∧
    (o = 0x20 → SameNext (.writeField o f v) (.classMapWrite f v) s) ∧
    (o = 0x30 → f = 0x00 → SameNext (.writeField o f v) (.tickDivWrite v) s) ∧
    (∀ line, o = (match line with | .frame => 0x31 | .gate => 0x32) →
      (f = 0x00 → SameNext (.writeField o f v) (.filterSettingsWrite line .sampleInterval v) s) ∧
      (f = 0x01 → SameNext (.writeField o f v) (.filterSettingsWrite line .agreementCount v) s)) ∧
    (o = 0x33 → SameNext (.writeField o f v) (.histogramEdgeWrite f v) s) ∧
    (o = 0x35 → f = 0x11 → SameNext (.writeField o f v) (.lostCountWrite v) s) ∧
    (∀ kind : Fin 11, o = 0x36 → f.toNat = kind.val →
      SameNext (.writeField o f v) (.alertEnableWrite kind v) s) ∧
    (Listening s →
      (o.toNat < 16 ∧ 14 ≤ f.toNat) ∨ (o = 0x30 ∧ f ≠ 0x00) ∨
        ((o = 0x31 ∨ o = 0x32) ∧ 2 ≤ f.toNat) ∨ o = 0x34 ∨ (o = 0x35 ∧ f ≠ 0x11) ∨
        (o = 0x36 ∧ 11 ≤ f.toNat) ∨ o = 0x37 ∨ o = 0x3F →
      ∃ t, exec (.writeField o f v) s = .next t ∧ RefusedWith s t 0x02 .badField) ∧
    (Listening s → catalogue s o = none →
      ∃ t, exec (.writeField o f v) s = .next t ∧ RefusedWith s t 0x02 .badObject)

/-! ### Commands on contracts, classes and settings -/

/-- STAGING_WRITE with a value in the field's range replaces that field of the staging copy alone, and any other value is
refused with BAD-VALUE; a reference class equal to n is in range. It is taken in every state of the device (R18). The
ranges are those of R14, in the order of the field numbers. -/
def Obligations.StagingWrite : Prop :=
  (List.finRange 14).map fieldRange = [(0, 3), (1, 65535), (0, 65535), (0, 65535), (1, 64), (0, 48), (0, 2),
    (0, 1), (0, 3), (0, 65535), (0, 16777215), (0, 1), (0, 1), (0, 15)] ∧
  ∀ (n : ClassId) (i : Fin 14) (v : Word32) (s : State), Listening s →
    ((fieldRange i).1 ≤ v.toNat ∧ v.toNat ≤ (fieldRange i).2 →
      ∃ k t, exec (.stagingWrite n i v) s = .next t ∧
        OnlyPort (s.setCls n { s.cls n with staging := k }) t ∧ Answers t 0x02 .ok 0 ∧
        contractField k i = v.toNat ∧
        ∀ j, j ≠ i → contractField k j = contractField (s.cls n).staging j) ∧
    (¬ ((fieldRange i).1 ≤ v.toNat ∧ v.toNat ≤ (fieldRange i).2) →
      ∃ t, exec (.stagingWrite n i v) s = .next t ∧ RefusedWith s t 0x02 .badValue)

/-- COMMIT: a copy that names its own class as the reference of COUNTED is refused; else it becomes active at once in
STOPPED and EXPIRED, and pending in the other states, where a pending copy that it replaces is counted (R21, R22, R23,
R37, R77). A TABLE-FULL and, where it opens a choice, a grant may follow in the happening (R94, R99; DEDUCED,
notes/assumptions/5.md and 10.md). -/
def Obligations.Commit : Prop :=
  ∀ (o f : Byte) (v : Word32) (s : State), Listening s →
    (∀ n : ClassId, o.toNat = n.val →
      ((s.cls n).staging.mode = .counted → (s.cls n).staging.reference = n →
        ∃ t, exec (.commit o f v) s = .next t ∧ RefusedWith s t 0x10 .badValue) ∧
      ((s.cls n).staging.mode ≠ .counted ∨ (s.cls n).staging.reference ≠ n →
        ((s.cls n).state = .stopped ∨ (s.cls n).state = .expired →
          ∃ t, exec (.commit o f v) s = .next t ∧ Answers t 0x10 .ok 0 ∧
            FollowsPort s (redecideAt n (s.setCls n { s.cls n with active := (s.cls n).staging })) t) ∧
        ((s.cls n).state = .armed ∨ (s.cls n).state = .running ∨ (s.cls n).state = .suspended →
          ∃ t, exec (.commit o f v) s = .next t ∧ Answers t 0x10 .ok 0 ∧
            ((s.cls n).waiting = none → OnlyPort (s.setCls n { s.cls n with
              waiting := some (s.cls n).staging }) t) ∧
            ((s.cls n).waiting ≠ none → OnlyPort (s.setCls n { s.cls n with
              waiting := some (s.cls n).staging
              live := { (s.cls n).live with
                supersededCommits := bump (s.cls n).live.supersededCommits 1 } }) t)))) ∧
    (16 ≤ o.toNat → ∃ t, exec (.commit o f v) s = .next t ∧ RefusedWith s t 0x10 .badObject)

/-- DISCARD_PENDING removes a pending copy and answers OK, and answers EMPTY where there is none, as in STOPPED and EXPIRED;
it changes nothing else, and the next boundary then runs the active contract on (R24). -/
def Obligations.DiscardPending : Prop :=
  ∀ (o f : Byte) (v : Word32) (s : State), Listening s →
    (∀ n : ClassId, o.toNat = n.val →
      ((s.cls n).waiting ≠ none → ∃ t, exec (.discardPending o f v) s = .next t ∧
        OnlyPort (s.setCls n { s.cls n with waiting := none }) t ∧ Answers t 0x11 .ok 0 ∧
        nextContract (t.cls n) = (s.cls n).active) ∧
      ((s.cls n).waiting = none →
        ∃ t, exec (.discardPending o f v) s = .next t ∧ RefusedWith s t 0x11 .empty) ∧
      (ClassLegal n (s.cls n) → (s.cls n).state = .stopped ∨ (s.cls n).state = .expired →
        ∃ t, exec (.discardPending o f v) s = .next t ∧ RefusedWith s t 0x11 .empty)) ∧
    (16 ≤ o.toNat →
      ∃ t, exec (.discardPending o f v) s = .next t ∧ RefusedWith s t 0x11 .badObject)

/-- SET_REPEAT sets the repeat setting in every class state, with 0 for CONTINUOUS and 1 for ONE-SHOT, and changes nothing
else (R29). -/
def Obligations.SetRepeat : Prop :=
  ∀ (o f : Byte) (v : Word32) (s : State), Listening s →
    (∀ n : ClassId, o.toNat = n.val →
      (v = 0 ∨ v = 1 → ∃ t, exec (.setRepeat o f v) s = .next t ∧
        OnlyPort (s.setCls n { s.cls n with oneShot := decide (v = 1) }) t ∧ Answers t 0x14 .ok 0) ∧
      (v ≠ 0 → v ≠ 1 →
        ∃ t, exec (.setRepeat o f v) s = .next t ∧ RefusedWith s t 0x14 .badValue)) ∧
    (16 ≤ o.toNat → ∃ t, exec (.setRepeat o f v) s = .next t ∧ RefusedWith s t 0x14 .badObject)

/-- START begins a STOPPED class as its active period mode directs and refuses any other state with STATE; STOP makes
the class STOPPED, clears its period, applies the pending copy and drops the copy of an edge that the class has not taken
(R60, R61); a stalled request sees the change (R25, R37, R38, R39, R77). A TABLE-FULL and, where it opens a choice, a grant may follow in the happening (R94, R99; DEDUCED,
notes/assumptions/5.md and 10.md). -/
def Obligations.StartAndStop : Prop :=
  ∀ (o f : Byte) (v : Word32) (s : State), Listening s →
    (∀ n : ClassId, o.toNat = n.val →
      ((s.cls n).state = .stopped → ∃ k t, exec (.start o f v) s = .next t ∧
        FollowsPort s (redecideAt n (s.setCls n k)) t ∧ Answers t 0x12 .ok 0 ∧
        ((s.cls n).active.mode = .timed ∨ (s.cls n).active.mode = .counted →
          k = { s.cls n with state := .running, elapsed := 0, remaining := (s.cls n).active.budget }) ∧
        ((s.cls n).active.mode = .synced →
          k = { s.cls n with state := .armed, elapsed := 0, remaining := 0, carryIn := 0 }) ∧
        ((s.cls n).active.mode = .gated → Matches s.gate.level (s.cls n).active.polarity →
          k = { s.cls n with state := .running, elapsed := 0, remaining := (s.cls n).active.budget }) ∧
        ((s.cls n).active.mode = .gated → ¬ Matches s.gate.level (s.cls n).active.polarity →
          k = { s.cls n with
            state := .suspended, elapsed := 0, remaining := (s.cls n).active.budget })) ∧
      ((s.cls n).state ≠ .stopped →
        (∃ t, exec (.start o f v) s = .next t ∧ RefusedWith s t 0x12 .stateRefused) ∧
        ∃ t, exec (.stop o f v) s = .next t ∧ Answers t 0x13 .ok 0 ∧
          FollowsPort s (redecideAt n (s.setCls n { s.cls n with
            state := .stopped
            active := nextContract (s.cls n)
            waiting := none
            remaining := 0
            elapsed := 0
            carryIn := 0
            overrun := false
            frameOwed := false
            gateOwed := false })) t) ∧
      ((s.cls n).state = .stopped →
        ∃ t, exec (.stop o f v) s = .next t ∧ OnlyPort s t ∧ Answers t 0x13 .ok 0)) ∧
    (16 ≤ o.toNat →
      (∃ t, exec (.start o f v) s = .next t ∧ RefusedWith s t 0x12 .badObject) ∧
      ∃ t, exec (.stop o f v) s = .next t ∧ RefusedWith s t 0x13 .badObject)

/-- CLASS_MAP_WRITE replaces both values of an entry; a field above 63 is refused with BAD-FIELD and a class byte that
is neither 00h to 0Fh nor 80h with BAD-VALUE (R6). A stalled request whose class the write changes is decided again,
against the new entry (R2, R8). A TABLE-FULL and, where it opens a choice, a grant may follow in the happening (R94,
R99; DEDUCED, notes/assumptions/5.md and 10.md). -/
def Obligations.ClassMapWrite : Prop :=
  ∀ (f : Byte) (v : Word32) (s : State), Listening s →
    (∀ (i : Initiator) (e : MapEntry), f.toNat = i.val → v.extractLsb' 0 8 = mapByte e.read →
      v.extractLsb' 8 8 = mapByte e.write →
      ∃ u t, u = { s with classMap := s.classMap.set i.val e i.isLt } ∧
        (∀ r : Request, r.initiator = i →
          classify u r = match r.kind with | .read => e.read | .write => e.write) ∧
        (∀ r : Request, r.initiator ≠ i → classify u r = classify s r) ∧
        exec (.classMapWrite f v) s = .next t ∧ Answers t 0x02 .ok 0 ∧
        (∀ r c, s.up = .presented r (some c) → classify u r ≠ .cls c →
          FollowsPort s (decidePresented u) t) ∧
        ((∀ r c, s.up = .presented r (some c) → classify u r = .cls c) → OnlyPort u t)) ∧
    (f.toNat < 64 → (∀ m, v.extractLsb' 0 8 ≠ mapByte m) ∨ (∀ m, v.extractLsb' 8 8 ≠ mapByte m) →
      ∃ t, exec (.classMapWrite f v) s = .next t ∧ RefusedWith s t 0x02 .badValue) ∧
    (64 ≤ f.toNat →
      ∃ t, exec (.classMapWrite f v) s = .next t ∧ RefusedWith s t 0x02 .badField)

/-- TICK_DIV_WRITE takes 1, 4, 16, 64 or 256 when the device is QUIESCED or every class is STOPPED. The interval in progress
keeps its divider and the next tick begins intervals under the new one; the timebase stays (R34). -/
def Obligations.TickDivWrite : Prop :=
  ∀ (v : Word32) (s : State), Listening s →
    (∀ d : TickDiv, v.toNat = tickClocks d →
      (s.quiesce = .quiesced ∨ AllStopped s → ∃ t, exec (.tickDivWrite v) s = .next t ∧
        OnlyPort { s with tickDiv := d } t ∧ Answers t 0x02 .ok 0 ∧
        intervalClocks t = intervalClocks s ∧
        ∀ f g later u, exec (.tick f g later) t = .next u → intervalClocks u = v.toNat) ∧
      (s.quiesce ≠ .quiesced → ¬ AllStopped s →
        ∃ t, exec (.tickDivWrite v) s = .next t ∧ RefusedWith s t 0x02 .stateRefused)) ∧
    (v.toNat ∉ [1, 4, 16, 64, 256] →
      ∃ t, exec (.tickDivWrite v) s = .next t ∧ RefusedWith s t 0x02 .badValue)

/-- FILTER_SETTINGS_WRITE checks the range, then that every class using the line is STOPPED, and an accepted write restarts
the agreement run and the sample count and leaves the filtered level (R62). A tick that the filter still owes (DEDUCED,
notes/assumptions/4.md) is the first one counted under the new interval, and under OFF it samples nothing (R63).
HISTOGRAM_EDGE_WRITE checks field, range, order and state in this order and moves one edge (R134). -/
def Obligations.FilterAndEdgeWrites : Prop :=
  ∀ (v : Word32) (s : State), Listening s →
    (∀ (line : Line) (x : FilterSetting) (fl : Filter),
      (∃ i, x = .sampleInterval ∧ v.toNat = intervalTicks i ∧
        fl = { s.filter line with
          interval := i
          run := 0
          count := 0
          owed := if i = .off then false else (s.filter line).owed }) ∨
      (x = .agreementCount ∧ 2 ≤ v.toNat ∧ v.toNat ≤ 7 ∧
        fl = { s.filter line with agreement := v.toNat, run := 0, count := 0 }) →
      ((∀ n, (s.cls n).active.mode = lineMode line → (s.cls n).state = .stopped) →
        ∃ t, exec (.filterSettingsWrite line x v) s = .next t ∧ OnlyPort (s.setFilter line fl) t ∧
          Answers t 0x02 .ok 0) ∧
      ((∃ n, (s.cls n).active.mode = lineMode line ∧ (s.cls n).state ≠ .stopped) →
        ∃ t, exec (.filterSettingsWrite line x v) s = .next t ∧
          RefusedWith s t 0x02 .stateRefused)) ∧
    (∀ (line : Line) (x : FilterSetting),
      (x = .sampleInterval ∧ v.toNat ∉ [0, 1, 4, 16]) ∨
        (x = .agreementCount ∧ ¬ (2 ≤ v.toNat ∧ v.toNat ≤ 7)) →
      ∃ t, exec (.filterSettingsWrite line x v) s = .next t ∧ RefusedWith s t 0x02 .badValue) ∧
    (∀ f : Byte, 7 ≤ f.toNat →
      ∃ t, exec (.histogramEdgeWrite f v) s = .next t ∧ RefusedWith s t 0x02 .badField) ∧
    ∀ (f : Byte) (k : Fin 7) (fits : Prop), f.toNat = k.val →
      (fits ↔ 1 ≤ v.toNat ∧ v.toNat ≤ 16777215 ∧
        ∀ j : Fin 7, (j.val + 1 = k.val → s.edges[j] < v.toNat) ∧
          (k.val + 1 = j.val → v.toNat < s.edges[j])) →
      (fits → s.quiesce = .quiesced ∨ AllStopped s →
        ∃ t, exec (.histogramEdgeWrite f v) s = .next t ∧
          OnlyPort { s with edges := s.edges.set k.val v.toNat k.isLt } t ∧ Answers t 0x02 .ok 0) ∧
      (fits → s.quiesce ≠ .quiesced → ¬ AllStopped s →
        ∃ t, exec (.histogramEdgeWrite f v) s = .next t ∧ RefusedWith s t 0x02 .stateRefused) ∧
      (¬ fits → ∃ t, exec (.histogramEdgeWrite f v) s = .next t ∧ RefusedWith s t 0x02 .badValue)

/-- SNAPSHOT copies the class's record with its number and the timebase into the view, answers the timebase, and with value
1 clears the record (R136). POP_CAPTURE moves the oldest record into the capture view and answers the number left
(R141). -/
def Obligations.SnapshotAndPop : Prop :=
  ∀ (o f : Byte) (v : Word32) (s : State), Listening s →
    (∀ n : ClassId, o.toNat = n.val →
      (v = 0 → ∃ t, exec (.snapshot o f v) s = .next t ∧ Answers t 0x20 .ok s.timebase ∧
        OnlyPort { s with snapshot := some ⟨n, s.timebase, (s.cls n).live⟩ } t) ∧
      (v = 1 → ∃ t, exec (.snapshot o f v) s = .next t ∧ Answers t 0x20 .ok s.timebase ∧
        OnlyPort (({ s with snapshot := some ⟨n, s.timebase, (s.cls n).live⟩ } : State).setCls n
          { s.cls n with live := clearStats }) t) ∧
      (v ≠ 0 → v ≠ 1 → ∃ t, exec (.snapshot o f v) s = .next t ∧ RefusedWith s t 0x20 .badValue)) ∧
    (16 ≤ o.toNat → ∃ t, exec (.snapshot o f v) s = .next t ∧ RefusedWith s t 0x20 .badObject) ∧
    (o = 0x35 → ∀ r rest, s.log = r :: rest → ∃ t, exec (.popCapture o f v) s = .next t ∧
      OnlyPort { s with log := rest, captureView := some r } t ∧
      Answers t 0x21 .ok (BitVec.ofNat 32 rest.length)) ∧
    (o = 0x35 → s.log = [] →
      ∃ t, exec (.popCapture o f v) s = .next t ∧ RefusedWith s t 0x21 .empty) ∧
    (o ≠ 0x35 → ∃ t, exec (.popCapture o f v) s = .next t ∧ RefusedWith s t 0x21 .badObject)

/-- RESET_REGULATOR puts every class, the views, the log, the flags and the quiesce state to their reset values and
leaves the traffic inside, the round-robin position and the settings; a stalled request is decided again, and at the end
of a quiesce so is an undecided one (R12, R32, R56, R66, R86, R104, R127, R144, R153, R161, R172). Its response is OK
with a flags byte that shows ALERT_N released and NORMAL. Of the global kinds only TABLE-FULL may stand after it, with no
entry FREE and a grant that waits, where a head has become ready, a request has entered the through slot or a grant has
been made (R99). DEDUCED: an undecided request is decided in it (notes/assumptions/21.md), the response is formed before
the decision (notes/assumptions/23.md), and TABLE-FULL and the choice come after the clearing of the flags
(notes/assumptions/5.md and 10.md). -/
def Obligations.ResetRegulator : Prop :=
  ∀ (o f : Byte) (v : Word32) (s : State), Listening s →
    ∃ u t, exec (.resetRegulator o f v) s = .next t ∧
      t.port.phase = .idle ∧ t.port.mdo = none ∧ t.port.held = ⟨.ok, 0x3F, 0, 0x00⟩ ∧
      u = { s with
        classes := u.classes
        snapshot := none
        log := []
        captureView := none
        lost := 0
        gflags := noGlobalFlags
        quiesce := .normal
        flush := if s.quiesce = .normal then s.flush else false } ∧
      (∀ n, u.cls n = {
        staging := defaultContract
        active := defaultContract
        waiting := none
        oneShot := false
        state := .stopped
        elapsed := 0
        remaining := 0
        carryIn := 0
        overrun := false
        tickOwed := (s.cls n).tickOwed
        frameOwed := false
        gateOwed := false
        outstanding := (s.cls n).outstanding
        queue := (s.cls n).queue
        live := clearStats
        flags := noClassFlags }) ∧
      (s.quiesce = .normal → FollowsPort s (redecide u) t) ∧
      (s.quiesce ≠ .normal → FollowsPort s (decidePresented u) t) ∧
      t.gflags = { noGlobalFlags with tableFull := t.gflags.tableFull } ∧
      (t.gflags.tableFull = true → lowestFree t = none ∧ grantWaits t = true) ∧
      (t.through = s.through → t.down = s.down → (∀ n, headReady t n = true → headReady s n = true) →
        t.gflags = noGlobalFlags)

/-! ### What every step keeps -/

/-- Every command has a next state while each STREAMING entry belongs to the response in progress, which R109 lays down;
the one stop of the model is a first beat that comes to be presented and names a STREAMING entry
(notes/assumptions/17.md). -/
def Obligations.NoCommandStops : Prop :=
  ∀ (c : Instr) (s : State),
    (StreamingOwned s → ∃ t, exec c s = .next t) ∧
    ((∀ b, c ≠ .upstreamResponseChoice (some b)) → ∃ t, exec c s = .next t) ∧
    (∀ b f, s.resetN = .high → DownstreamOpen s → s.entry b.tag = some f → f.phase = .streaming →
      exec (.upstreamResponseChoice (some b)) s = .fault .firstBeatNamesStreaming)

/-- Every step keeps each class within its contracts' ranges, with the values that its state fixes, and a copy of an
edge only at a class that receives it (R14, R36, R37, R39, R48, R49, R60, R61). -/
def Obligations.PeriodsLegalKept : Prop :=
  ∀ s t : State, step s = .next t → PeriodsLegal s → PeriodsLegal t

/-- Every step keeps the hold store within 48 entries, the capture log within 32 records and the lost count within 16 bits,
the histogram edges ascending and in range, and both filters within their ranges (R57, R88, R133, R140). -/
def Obligations.SizesKept : Prop :=
  ∀ s t : State, step s = .next t →
    (HoldStoreFits s → HoldStoreFits t) ∧ (LogFits s → LogFits t) ∧ (EdgesLegal s → EdgesLegal t) ∧
      (FiltersLegal s → FiltersLegal t)

/-- Every step keeps the marks of the in-flight entries legal, the STREAMING entry the one of the response in progress,
both slots empty while a request stalls (R76, R106, R109, R119), no source waiting while the response arbiter is free
(R120), and no choice of the downstream request arbiter open (R94). That an ABANDONED entry has no first-beat time after
its late response is the model's choice (DESIGN CHOICE, notes/assumptions/33.md). -/
def Obligations.EntriesKept : Prop :=
  ∀ s t : State, step s = .next t →
    (EntriesLegal s → EntriesLegal t) ∧ (StreamingOwned s → StreamingOwned t) ∧
      (StallLeavesSlotsEmpty s → StallLeavesSlotsEmpty t) ∧
      (ArbiterChosen s → StandingLegal s → ArbiterChosen t ∧ StandingLegal t) ∧
      (¬ ChoiceOpen s → ¬ ChoiceOpen t)

/-- Every step keeps each class's outstanding count equal to its requests in the through slot and in PENDING and STREAMING
entries (R80), and, with contracts in range, at most 64 (R81). -/
def Obligations.OutstandingKept : Prop :=
  ∀ s t : State, step s = .next t →
    (OutstandingExact s → OutstandingExact t) ∧
      (PeriodsLegal s → OutstandingBounded s → OutstandingBounded t)

/-- The class map changes only by a write of it or by pin reset: CLASS_MAP_WRITE, a WRITE_FIELD of object 20h, or a frame
that carries one (R13). Until pin reset a request leaves a hold queue only as its head by a grant, which puts a new forward on
a free channel, and joins only at the end (R88, R94, R100). The items that an in-flight entry was filled with stay while it
is in use; an entry that becomes FREE may be filled anew by a grant in the same happening (R106, R107). -/
def Obligations.KeptUntilPinReset : Prop :=
  ∀ (c : Instr) (s t : State), exec c s = .next t → c ≠ .pinReset →
    ((∀ f v, c ≠ .classMapWrite f v) → (∀ f v, c ≠ .writeField 0x20 f v) →
      (∀ f v, c ≠ .frameClose (commandBits 0x02 0x20 f v)) → t.classMap = s.classMap) ∧
    (∀ n, (∃ l, heldItems (t.cls n).queue = heldItems (s.cls n).queue ++ l) ∨
      ((s.down = none ∨ c = .downstreamRequestTaken) ∧ t.rrPos = n ∧ t.altMark = .throughSlot ∧
        (∃ w, t.down = some w ∧ w.sent = 0) ∧
        ∃ l, heldItems (t.cls n).queue = (heldItems (s.cls n).queue).tail ++ l)) ∧
    ∀ k f g, s.entry k = some f → t.entry k = some g →
      (s.down = none ∧ ∃ w, t.down = some w ∧ w.sent = 0 ∧ w.header.tag = k) ∨
      g = { f with
        phase := g.phase
        firstBeat := g.firstBeat
        owed := g.owed
        lateConsumed := g.lateConsumed }
end

