-- ==== Sys2Proof/Laws/State.lean ====
section
/-! SUPPORT. The small lemmas of the state: one per field per update, and what the accessors of one class, one entry and
one filter read after an update. -/

namespace Sys2Proof.Machine

variable (s : State)

/-! ### The class update -/

@[simp] theorem State.setCls_resetN (c : ClassId) (k : ClassRec) : (s.setCls c k).resetN = s.resetN := rfl
@[simp] theorem State.setCls_tickDiv (c : ClassId) (k : ClassRec) : (s.setCls c k).tickDiv = s.tickDiv := rfl
@[simp] theorem State.setCls_intervalDiv (c : ClassId) (k : ClassRec) : (s.setCls c k).intervalDiv = s.intervalDiv := rfl
@[simp] theorem State.setCls_timebase (c : ClassId) (k : ClassRec) : (s.setCls c k).timebase = s.timebase := rfl
@[simp] theorem State.setCls_frame (c : ClassId) (k : ClassRec) : (s.setCls c k).frame = s.frame := rfl
@[simp] theorem State.setCls_gate (c : ClassId) (k : ClassRec) : (s.setCls c k).gate = s.gate := rfl
@[simp] theorem State.setCls_classMap (c : ClassId) (k : ClassRec) : (s.setCls c k).classMap = s.classMap := rfl
@[simp] theorem State.setCls_up (c : ClassId) (k : ClassRec) : (s.setCls c k).up = s.up := rfl
@[simp] theorem State.setCls_through (c : ClassId) (k : ClassRec) : (s.setCls c k).through = s.through := rfl
@[simp] theorem State.setCls_refused (c : ClassId) (k : ClassRec) : (s.setCls c k).refused = s.refused := rfl
@[simp] theorem State.setCls_rrPos (c : ClassId) (k : ClassRec) : (s.setCls c k).rrPos = s.rrPos := rfl
@[simp] theorem State.setCls_altMark (c : ClassId) (k : ClassRec) : (s.setCls c k).altMark = s.altMark := rfl
@[simp] theorem State.setCls_down (c : ClassId) (k : ClassRec) : (s.setCls c k).down = s.down := rfl
@[simp] theorem State.setCls_entries (c : ClassId) (k : ClassRec) : (s.setCls c k).entries = s.entries := rfl
@[simp] theorem State.setCls_discard (c : ClassId) (k : ClassRec) : (s.setCls c k).discard = s.discard := rfl
@[simp] theorem State.setCls_standing (c : ClassId) (k : ClassRec) : (s.setCls c k).standing = s.standing := rfl
@[simp] theorem State.setCls_upResp (c : ClassId) (k : ClassRec) : (s.setCls c k).upResp = s.upResp := rfl
@[simp] theorem State.setCls_edges (c : ClassId) (k : ClassRec) : (s.setCls c k).edges = s.edges := rfl
@[simp] theorem State.setCls_snapshot (c : ClassId) (k : ClassRec) : (s.setCls c k).snapshot = s.snapshot := rfl
@[simp] theorem State.setCls_log (c : ClassId) (k : ClassRec) : (s.setCls c k).log = s.log := rfl
@[simp] theorem State.setCls_captureView (c : ClassId) (k : ClassRec) : (s.setCls c k).captureView = s.captureView := rfl
@[simp] theorem State.setCls_lost (c : ClassId) (k : ClassRec) : (s.setCls c k).lost = s.lost := rfl
@[simp] theorem State.setCls_gflags (c : ClassId) (k : ClassRec) : (s.setCls c k).gflags = s.gflags := rfl
@[simp] theorem State.setCls_enables (c : ClassId) (k : ClassRec) : (s.setCls c k).enables = s.enables := rfl
@[simp] theorem State.setCls_quiesce (c : ClassId) (k : ClassRec) : (s.setCls c k).quiesce = s.quiesce := rfl
@[simp] theorem State.setCls_flush (c : ClassId) (k : ClassRec) : (s.setCls c k).flush = s.flush := rfl
@[simp] theorem State.setCls_port (c : ClassId) (k : ClassRec) : (s.setCls c k).port = s.port := rfl
@[simp] theorem State.setCls_pending (c : ClassId) (k : ClassRec) : (s.setCls c k).pending = s.pending := rfl

/-- An update of one class by a function is the update by its value. -/
@[simp] theorem State.updCls_eq (c : ClassId) (f : ClassRec → ClassRec) :
    s.updCls c f = s.setCls c (f (s.cls c)) := rfl

@[simp] theorem State.cls_setCls_same (c : ClassId) (k : ClassRec) : (s.setCls c k).cls c = k := by
  simp [State.cls, State.setCls]

theorem State.cls_setCls_ne {c d : ClassId} (k : ClassRec) (h : d ≠ c) :
    (s.setCls c k).cls d = s.cls d := by
  have : c.val ≠ d.val := fun e => h (Fin.ext e.symm)
  simp [State.cls, State.setCls, this]

theorem State.cls_setCls (c d : ClassId) (k : ClassRec) :
    (s.setCls c k).cls d = if d = c then k else s.cls d := by
  split
  · next h => subst h; simp
  · next h => exact State.cls_setCls_ne s k h

@[simp] theorem State.setCls_self (c : ClassId) : s.setCls c (s.cls c) = s := by
  simp [State.cls, State.setCls]

@[simp] theorem State.setCls_setCls (c : ClassId) (k l : ClassRec) :
    (s.setCls c k).setCls c l = s.setCls c l := by
  simp [State.setCls]

/-- Two states with the same classes have the same class vector. -/
theorem State.classes_ext {s t : State} (h : ∀ c, s.cls c = t.cls c) : s.classes = t.classes := by
  apply Vector.ext
  intro i hi
  exact h ⟨i, hi⟩

/-! ### The update of all classes -/

@[simp] theorem State.mapCls_resetN (f : ClassId → ClassRec → ClassRec) : (s.mapCls f).resetN = s.resetN := by simp only [State.mapCls]
@[simp] theorem State.mapCls_tickDiv (f : ClassId → ClassRec → ClassRec) : (s.mapCls f).tickDiv = s.tickDiv := by simp only [State.mapCls]
@[simp] theorem State.mapCls_intervalDiv (f : ClassId → ClassRec → ClassRec) : (s.mapCls f).intervalDiv = s.intervalDiv := by simp only [State.mapCls]
@[simp] theorem State.mapCls_timebase (f : ClassId → ClassRec → ClassRec) : (s.mapCls f).timebase = s.timebase := by simp only [State.mapCls]
@[simp] theorem State.mapCls_frame (f : ClassId → ClassRec → ClassRec) : (s.mapCls f).frame = s.frame := by simp only [State.mapCls]
@[simp] theorem State.mapCls_gate (f : ClassId → ClassRec → ClassRec) : (s.mapCls f).gate = s.gate := by simp only [State.mapCls]
@[simp] theorem State.mapCls_classMap (f : ClassId → ClassRec → ClassRec) : (s.mapCls f).classMap = s.classMap := by simp only [State.mapCls]
@[simp] theorem State.mapCls_up (f : ClassId → ClassRec → ClassRec) : (s.mapCls f).up = s.up := by simp only [State.mapCls]
@[simp] theorem State.mapCls_through (f : ClassId → ClassRec → ClassRec) : (s.mapCls f).through = s.through := by simp only [State.mapCls]
@[simp] theorem State.mapCls_refused (f : ClassId → ClassRec → ClassRec) : (s.mapCls f).refused = s.refused := by simp only [State.mapCls]
@[simp] theorem State.mapCls_rrPos (f : ClassId → ClassRec → ClassRec) : (s.mapCls f).rrPos = s.rrPos := by simp only [State.mapCls]
@[simp] theorem State.mapCls_altMark (f : ClassId → ClassRec → ClassRec) : (s.mapCls f).altMark = s.altMark := by simp only [State.mapCls]
@[simp] theorem State.mapCls_down (f : ClassId → ClassRec → ClassRec) : (s.mapCls f).down = s.down := by simp only [State.mapCls]
@[simp] theorem State.mapCls_entries (f : ClassId → ClassRec → ClassRec) : (s.mapCls f).entries = s.entries := by simp only [State.mapCls]
@[simp] theorem State.mapCls_discard (f : ClassId → ClassRec → ClassRec) : (s.mapCls f).discard = s.discard := by simp only [State.mapCls]
@[simp] theorem State.mapCls_standing (f : ClassId → ClassRec → ClassRec) : (s.mapCls f).standing = s.standing := by simp only [State.mapCls]
@[simp] theorem State.mapCls_upResp (f : ClassId → ClassRec → ClassRec) : (s.mapCls f).upResp = s.upResp := by simp only [State.mapCls]
@[simp] theorem State.mapCls_edges (f : ClassId → ClassRec → ClassRec) : (s.mapCls f).edges = s.edges := by simp only [State.mapCls]
@[simp] theorem State.mapCls_snapshot (f : ClassId → ClassRec → ClassRec) : (s.mapCls f).snapshot = s.snapshot := by simp only [State.mapCls]
@[simp] theorem State.mapCls_log (f : ClassId → ClassRec → ClassRec) : (s.mapCls f).log = s.log := by simp only [State.mapCls]
@[simp] theorem State.mapCls_captureView (f : ClassId → ClassRec → ClassRec) : (s.mapCls f).captureView = s.captureView := by simp only [State.mapCls]
@[simp] theorem State.mapCls_lost (f : ClassId → ClassRec → ClassRec) : (s.mapCls f).lost = s.lost := by simp only [State.mapCls]
@[simp] theorem State.mapCls_gflags (f : ClassId → ClassRec → ClassRec) : (s.mapCls f).gflags = s.gflags := by simp only [State.mapCls]
@[simp] theorem State.mapCls_enables (f : ClassId → ClassRec → ClassRec) : (s.mapCls f).enables = s.enables := by simp only [State.mapCls]
@[simp] theorem State.mapCls_quiesce (f : ClassId → ClassRec → ClassRec) : (s.mapCls f).quiesce = s.quiesce := by simp only [State.mapCls]
@[simp] theorem State.mapCls_flush (f : ClassId → ClassRec → ClassRec) : (s.mapCls f).flush = s.flush := by simp only [State.mapCls]
@[simp] theorem State.mapCls_port (f : ClassId → ClassRec → ClassRec) : (s.mapCls f).port = s.port := by simp only [State.mapCls]
@[simp] theorem State.mapCls_pending (f : ClassId → ClassRec → ClassRec) : (s.mapCls f).pending = s.pending := by simp only [State.mapCls]

@[simp] theorem State.cls_mapCls (f : ClassId → ClassRec → ClassRec) (c : ClassId) :
    (s.mapCls f).cls c = f c (s.cls c) := by
  simp [State.cls, State.mapCls]

/-! ### The entry update -/

@[simp] theorem State.setEntry_resetN (k : EntryIndex) (e : Option Flight) : (s.setEntry k e).resetN = s.resetN := rfl
@[simp] theorem State.setEntry_tickDiv (k : EntryIndex) (e : Option Flight) : (s.setEntry k e).tickDiv = s.tickDiv := rfl
@[simp] theorem State.setEntry_intervalDiv (k : EntryIndex) (e : Option Flight) : (s.setEntry k e).intervalDiv = s.intervalDiv := rfl
@[simp] theorem State.setEntry_timebase (k : EntryIndex) (e : Option Flight) : (s.setEntry k e).timebase = s.timebase := rfl
@[simp] theorem State.setEntry_frame (k : EntryIndex) (e : Option Flight) : (s.setEntry k e).frame = s.frame := rfl
@[simp] theorem State.setEntry_gate (k : EntryIndex) (e : Option Flight) : (s.setEntry k e).gate = s.gate := rfl
@[simp] theorem State.setEntry_classMap (k : EntryIndex) (e : Option Flight) : (s.setEntry k e).classMap = s.classMap := rfl
@[simp] theorem State.setEntry_classes (k : EntryIndex) (e : Option Flight) : (s.setEntry k e).classes = s.classes := rfl
@[simp] theorem State.setEntry_up (k : EntryIndex) (e : Option Flight) : (s.setEntry k e).up = s.up := rfl
@[simp] theorem State.setEntry_through (k : EntryIndex) (e : Option Flight) : (s.setEntry k e).through = s.through := rfl
@[simp] theorem State.setEntry_refused (k : EntryIndex) (e : Option Flight) : (s.setEntry k e).refused = s.refused := rfl
@[simp] theorem State.setEntry_rrPos (k : EntryIndex) (e : Option Flight) : (s.setEntry k e).rrPos = s.rrPos := rfl
@[simp] theorem State.setEntry_altMark (k : EntryIndex) (e : Option Flight) : (s.setEntry k e).altMark = s.altMark := rfl
@[simp] theorem State.setEntry_down (k : EntryIndex) (e : Option Flight) : (s.setEntry k e).down = s.down := rfl
@[simp] theorem State.setEntry_discard (k : EntryIndex) (e : Option Flight) : (s.setEntry k e).discard = s.discard := rfl
@[simp] theorem State.setEntry_standing (k : EntryIndex) (e : Option Flight) : (s.setEntry k e).standing = s.standing := rfl
@[simp] theorem State.setEntry_upResp (k : EntryIndex) (e : Option Flight) : (s.setEntry k e).upResp = s.upResp := rfl
@[simp] theorem State.setEntry_edges (k : EntryIndex) (e : Option Flight) : (s.setEntry k e).edges = s.edges := rfl
@[simp] theorem State.setEntry_snapshot (k : EntryIndex) (e : Option Flight) : (s.setEntry k e).snapshot = s.snapshot := rfl
@[simp] theorem State.setEntry_log (k : EntryIndex) (e : Option Flight) : (s.setEntry k e).log = s.log := rfl
@[simp] theorem State.setEntry_captureView (k : EntryIndex) (e : Option Flight) : (s.setEntry k e).captureView = s.captureView := rfl
@[simp] theorem State.setEntry_lost (k : EntryIndex) (e : Option Flight) : (s.setEntry k e).lost = s.lost := rfl
@[simp] theorem State.setEntry_gflags (k : EntryIndex) (e : Option Flight) : (s.setEntry k e).gflags = s.gflags := rfl
@[simp] theorem State.setEntry_enables (k : EntryIndex) (e : Option Flight) : (s.setEntry k e).enables = s.enables := rfl
@[simp] theorem State.setEntry_quiesce (k : EntryIndex) (e : Option Flight) : (s.setEntry k e).quiesce = s.quiesce := rfl
@[simp] theorem State.setEntry_flush (k : EntryIndex) (e : Option Flight) : (s.setEntry k e).flush = s.flush := rfl
@[simp] theorem State.setEntry_port (k : EntryIndex) (e : Option Flight) : (s.setEntry k e).port = s.port := rfl
@[simp] theorem State.setEntry_pending (k : EntryIndex) (e : Option Flight) : (s.setEntry k e).pending = s.pending := rfl

@[simp] theorem State.entry_setEntry_same (k : EntryIndex) (e : Option Flight) :
    (s.setEntry k e).entry k = e := by
  simp [State.entry, State.setEntry]

theorem State.entry_setEntry_ne {k j : EntryIndex} (e : Option Flight) (h : j ≠ k) :
    (s.setEntry k e).entry j = s.entry j := by
  have : k.val ≠ j.val := fun x => h (Fin.ext x.symm)
  simp [State.entry, State.setEntry, this]

theorem State.entry_setEntry (k j : EntryIndex) (e : Option Flight) :
    (s.setEntry k e).entry j = if j = k then e else s.entry j := by
  split
  · next h => subst h; simp
  · next h => exact State.entry_setEntry_ne s e h

@[simp] theorem State.cls_setEntry (k : EntryIndex) (e : Option Flight) (c : ClassId) :
    (s.setEntry k e).cls c = s.cls c := rfl

@[simp] theorem State.entry_setCls (c : ClassId) (r : ClassRec) (k : EntryIndex) :
    (s.setCls c r).entry k = s.entry k := rfl

@[simp] theorem State.entry_mapCls (f : ClassId → ClassRec → ClassRec) (k : EntryIndex) :
    (s.mapCls f).entry k = s.entry k := by simp only [State.mapCls, State.entry]

/-! ### The filter update -/

@[simp] theorem State.setFilter_resetN (line : Line) (f : Filter) : (s.setFilter line f).resetN = s.resetN := by cases line <;> rfl
@[simp] theorem State.setFilter_tickDiv (line : Line) (f : Filter) : (s.setFilter line f).tickDiv = s.tickDiv := by cases line <;> rfl
@[simp] theorem State.setFilter_intervalDiv (line : Line) (f : Filter) : (s.setFilter line f).intervalDiv = s.intervalDiv := by cases line <;> rfl
@[simp] theorem State.setFilter_timebase (line : Line) (f : Filter) : (s.setFilter line f).timebase = s.timebase := by cases line <;> rfl
@[simp] theorem State.setFilter_classMap (line : Line) (f : Filter) : (s.setFilter line f).classMap = s.classMap := by cases line <;> rfl
@[simp] theorem State.setFilter_classes (line : Line) (f : Filter) : (s.setFilter line f).classes = s.classes := by cases line <;> rfl
@[simp] theorem State.setFilter_up (line : Line) (f : Filter) : (s.setFilter line f).up = s.up := by cases line <;> rfl
@[simp] theorem State.setFilter_through (line : Line) (f : Filter) : (s.setFilter line f).through = s.through := by cases line <;> rfl
@[simp] theorem State.setFilter_refused (line : Line) (f : Filter) : (s.setFilter line f).refused = s.refused := by cases line <;> rfl
@[simp] theorem State.setFilter_rrPos (line : Line) (f : Filter) : (s.setFilter line f).rrPos = s.rrPos := by cases line <;> rfl
@[simp] theorem State.setFilter_altMark (line : Line) (f : Filter) : (s.setFilter line f).altMark = s.altMark := by cases line <;> rfl
@[simp] theorem State.setFilter_down (line : Line) (f : Filter) : (s.setFilter line f).down = s.down := by cases line <;> rfl
@[simp] theorem State.setFilter_entries (line : Line) (f : Filter) : (s.setFilter line f).entries = s.entries := by cases line <;> rfl
@[simp] theorem State.setFilter_discard (line : Line) (f : Filter) : (s.setFilter line f).discard = s.discard := by cases line <;> rfl
@[simp] theorem State.setFilter_standing (line : Line) (f : Filter) : (s.setFilter line f).standing = s.standing := by cases line <;> rfl
@[simp] theorem State.setFilter_upResp (line : Line) (f : Filter) : (s.setFilter line f).upResp = s.upResp := by cases line <;> rfl
@[simp] theorem State.setFilter_edges (line : Line) (f : Filter) : (s.setFilter line f).edges = s.edges := by cases line <;> rfl
@[simp] theorem State.setFilter_snapshot (line : Line) (f : Filter) : (s.setFilter line f).snapshot = s.snapshot := by cases line <;> rfl
@[simp] theorem State.setFilter_log (line : Line) (f : Filter) : (s.setFilter line f).log = s.log := by cases line <;> rfl
@[simp] theorem State.setFilter_captureView (line : Line) (f : Filter) : (s.setFilter line f).captureView = s.captureView := by cases line <;> rfl
@[simp] theorem State.setFilter_lost (line : Line) (f : Filter) : (s.setFilter line f).lost = s.lost := by cases line <;> rfl
@[simp] theorem State.setFilter_gflags (line : Line) (f : Filter) : (s.setFilter line f).gflags = s.gflags := by cases line <;> rfl
@[simp] theorem State.setFilter_enables (line : Line) (f : Filter) : (s.setFilter line f).enables = s.enables := by cases line <;> rfl
@[simp] theorem State.setFilter_quiesce (line : Line) (f : Filter) : (s.setFilter line f).quiesce = s.quiesce := by cases line <;> rfl
@[simp] theorem State.setFilter_flush (line : Line) (f : Filter) : (s.setFilter line f).flush = s.flush := by cases line <;> rfl
@[simp] theorem State.setFilter_port (line : Line) (f : Filter) : (s.setFilter line f).port = s.port := by cases line <;> rfl
@[simp] theorem State.setFilter_pending (line : Line) (f : Filter) : (s.setFilter line f).pending = s.pending := by cases line <;> rfl

@[simp] theorem State.filter_setFilter_same (line : Line) (f : Filter) :
    (s.setFilter line f).filter line = f := by cases line <;> rfl

theorem State.filter_setFilter_ne {line other : Line} (f : Filter) (h : other ≠ line) :
    (s.setFilter line f).filter other = s.filter other := by
  cases line <;> cases other <;> first | rfl | exact absurd rfl h

@[simp] theorem State.cls_setFilter (line : Line) (f : Filter) (c : ClassId) :
    (s.setFilter line f).cls c = s.cls c := by cases line <;> rfl

@[simp] theorem State.entry_setFilter (line : Line) (f : Filter) (k : EntryIndex) :
    (s.setFilter line f).entry k = s.entry k := by cases line <;> rfl

/-! ### Raising a global flag (R146) -/

@[simp] theorem State.raiseGlobal_resetN (kind : GlobalKind) : (raiseGlobal kind s).resetN = s.resetN := by cases kind <;> rfl
@[simp] theorem State.raiseGlobal_tickDiv (kind : GlobalKind) : (raiseGlobal kind s).tickDiv = s.tickDiv := by cases kind <;> rfl
@[simp] theorem State.raiseGlobal_intervalDiv (kind : GlobalKind) : (raiseGlobal kind s).intervalDiv = s.intervalDiv := by cases kind <;> rfl
@[simp] theorem State.raiseGlobal_timebase (kind : GlobalKind) : (raiseGlobal kind s).timebase = s.timebase := by cases kind <;> rfl
@[simp] theorem State.raiseGlobal_frame (kind : GlobalKind) : (raiseGlobal kind s).frame = s.frame := by cases kind <;> rfl
@[simp] theorem State.raiseGlobal_gate (kind : GlobalKind) : (raiseGlobal kind s).gate = s.gate := by cases kind <;> rfl
@[simp] theorem State.raiseGlobal_classMap (kind : GlobalKind) : (raiseGlobal kind s).classMap = s.classMap := by cases kind <;> rfl
@[simp] theorem State.raiseGlobal_classes (kind : GlobalKind) : (raiseGlobal kind s).classes = s.classes := by cases kind <;> rfl
@[simp] theorem State.raiseGlobal_up (kind : GlobalKind) : (raiseGlobal kind s).up = s.up := by cases kind <;> rfl
@[simp] theorem State.raiseGlobal_through (kind : GlobalKind) : (raiseGlobal kind s).through = s.through := by cases kind <;> rfl
@[simp] theorem State.raiseGlobal_refused (kind : GlobalKind) : (raiseGlobal kind s).refused = s.refused := by cases kind <;> rfl
@[simp] theorem State.raiseGlobal_rrPos (kind : GlobalKind) : (raiseGlobal kind s).rrPos = s.rrPos := by cases kind <;> rfl
@[simp] theorem State.raiseGlobal_altMark (kind : GlobalKind) : (raiseGlobal kind s).altMark = s.altMark := by cases kind <;> rfl
@[simp] theorem State.raiseGlobal_down (kind : GlobalKind) : (raiseGlobal kind s).down = s.down := by cases kind <;> rfl
@[simp] theorem State.raiseGlobal_entries (kind : GlobalKind) : (raiseGlobal kind s).entries = s.entries := by cases kind <;> rfl
@[simp] theorem State.raiseGlobal_discard (kind : GlobalKind) : (raiseGlobal kind s).discard = s.discard := by cases kind <;> rfl
@[simp] theorem State.raiseGlobal_standing (kind : GlobalKind) : (raiseGlobal kind s).standing = s.standing := by cases kind <;> rfl
@[simp] theorem State.raiseGlobal_upResp (kind : GlobalKind) : (raiseGlobal kind s).upResp = s.upResp := by cases kind <;> rfl
@[simp] theorem State.raiseGlobal_edges (kind : GlobalKind) : (raiseGlobal kind s).edges = s.edges := by cases kind <;> rfl
@[simp] theorem State.raiseGlobal_snapshot (kind : GlobalKind) : (raiseGlobal kind s).snapshot = s.snapshot := by cases kind <;> rfl
@[simp] theorem State.raiseGlobal_log (kind : GlobalKind) : (raiseGlobal kind s).log = s.log := by cases kind <;> rfl
@[simp] theorem State.raiseGlobal_captureView (kind : GlobalKind) : (raiseGlobal kind s).captureView = s.captureView := by cases kind <;> rfl
@[simp] theorem State.raiseGlobal_lost (kind : GlobalKind) : (raiseGlobal kind s).lost = s.lost := by cases kind <;> rfl
@[simp] theorem State.raiseGlobal_enables (kind : GlobalKind) : (raiseGlobal kind s).enables = s.enables := by cases kind <;> rfl
@[simp] theorem State.raiseGlobal_quiesce (kind : GlobalKind) : (raiseGlobal kind s).quiesce = s.quiesce := by cases kind <;> rfl
@[simp] theorem State.raiseGlobal_flush (kind : GlobalKind) : (raiseGlobal kind s).flush = s.flush := by cases kind <;> rfl
@[simp] theorem State.raiseGlobal_port (kind : GlobalKind) : (raiseGlobal kind s).port = s.port := by cases kind <;> rfl
@[simp] theorem State.raiseGlobal_pending (kind : GlobalKind) : (raiseGlobal kind s).pending = s.pending := by cases kind <;> rfl

@[simp] theorem State.cls_raiseGlobal (kind : GlobalKind) (c : ClassId) :
    (raiseGlobal kind s).cls c = s.cls c := by cases kind <;> rfl

@[simp] theorem State.entry_raiseGlobal (kind : GlobalKind) (k : EntryIndex) :
    (raiseGlobal kind s).entry k = s.entry k := by cases kind <;> rfl

/-! ### Raising a flag of a class (R146) -/

@[simp] theorem raiseAt_staging (kind : ClassKind) (k : ClassRec) : (raiseAt kind k).staging = k.staging := by
  cases kind <;> rfl
@[simp] theorem raiseAt_active (kind : ClassKind) (k : ClassRec) : (raiseAt kind k).active = k.active := by
  cases kind <;> rfl
@[simp] theorem raiseAt_waiting (kind : ClassKind) (k : ClassRec) : (raiseAt kind k).waiting = k.waiting := by
  cases kind <;> rfl
@[simp] theorem raiseAt_oneShot (kind : ClassKind) (k : ClassRec) : (raiseAt kind k).oneShot = k.oneShot := by
  cases kind <;> rfl
@[simp] theorem raiseAt_state (kind : ClassKind) (k : ClassRec) : (raiseAt kind k).state = k.state := by
  cases kind <;> rfl
@[simp] theorem raiseAt_elapsed (kind : ClassKind) (k : ClassRec) : (raiseAt kind k).elapsed = k.elapsed := by
  cases kind <;> rfl
@[simp] theorem raiseAt_remaining (kind : ClassKind) (k : ClassRec) : (raiseAt kind k).remaining = k.remaining := by
  cases kind <;> rfl
@[simp] theorem raiseAt_carryIn (kind : ClassKind) (k : ClassRec) : (raiseAt kind k).carryIn = k.carryIn := by
  cases kind <;> rfl
@[simp] theorem raiseAt_overrun (kind : ClassKind) (k : ClassRec) : (raiseAt kind k).overrun = k.overrun := by
  cases kind <;> rfl
@[simp] theorem raiseAt_tickOwed (kind : ClassKind) (k : ClassRec) : (raiseAt kind k).tickOwed = k.tickOwed := by
  cases kind <;> rfl
@[simp] theorem raiseAt_frameOwed (kind : ClassKind) (k : ClassRec) : (raiseAt kind k).frameOwed = k.frameOwed := by
  cases kind <;> rfl
@[simp] theorem raiseAt_gateOwed (kind : ClassKind) (k : ClassRec) : (raiseAt kind k).gateOwed = k.gateOwed := by
  cases kind <;> rfl
@[simp] theorem raiseAt_outstanding (kind : ClassKind) (k : ClassRec) : (raiseAt kind k).outstanding = k.outstanding := by
  cases kind <;> rfl
@[simp] theorem raiseAt_queue (kind : ClassKind) (k : ClassRec) : (raiseAt kind k).queue = k.queue := by
  cases kind <;> rfl
@[simp] theorem raiseAt_live (kind : ClassKind) (k : ClassRec) : (raiseAt kind k).live = k.live := by
  cases kind <;> rfl

theorem raiseAt_sets (kind : ClassKind) (k : ClassRec) : classFlag (raiseAt kind k).flags kind = true := by
  cases kind <;> rfl

theorem raiseAt_keeps (kind other : ClassKind) (k : ClassRec) (h : other ≠ kind) :
    classFlag (raiseAt kind k).flags other = classFlag k.flags other := by
  cases kind <;> cases other <;> first | rfl | exact absurd rfl h

end Sys2Proof.Machine
end

