-- ==== Sys2Proof/Laws/Ops.lean ====
section
/-! SUPPORT. What the shared operations can do, once for each: the raising of TABLE-FULL and QUIESCED, the new
decision, the closing of a frame, the choice of a response, the settling of a tick. -/

namespace Sys2Proof.Machine

variable (s t : State)

/-! ### TABLE-FULL (R99) -/

/-- A happening that changes nothing brings nothing together. -/
@[simp] theorem noteTableFull_self : noteTableFull s s = s := by
  have h : bringsTableFull s s = false := by
    unfold bringsTableFull
    cases lowestFree s with
    | none => cases s.through <;> simp
    | some _ => simp
  simp [noteTableFull, h]

/-- The test of R99 leaves the state or raises TABLE-FULL. -/
theorem noteTableFull_cases : noteTableFull s t = t ∨ noteTableFull s t = raiseGlobal .tableFull t := by
  unfold noteTableFull
  split
  · exact .inr rfl
  · exact .inl rfl

theorem noteTableFull_eq : noteTableFull s t = { t with gflags := (noteTableFull s t).gflags } := by
  rcases noteTableFull_cases s t with h | h
  · rw [h]
  · rw [h]
    rfl

/-- A happening that takes no FREE entry, fills no through slot and readies no head raises nothing. -/
theorem noteTableFull_same {s t : State} (hl : lowestFree t = lowestFree s)
    (ht : s.through = none → t.through = none)
    (hh : ∀ c, headReady t c = true → headReady s c = true) : noteTableFull s t = t := by
  have h1 : (t.through.isSome && s.through.isNone) = false := by
    cases h : s.through with
    | none => simp [ht h]
    | some _ => simp
  have h2 : ((List.finRange 16).any fun c => headReady t c && !headReady s c) = false := by
    rw [List.any_eq_false]
    intro c _
    cases hc : headReady t c with
    | false => simp
    | true => simp [hh c hc]
  have h : bringsTableFull s t = false := by
    unfold bringsTableFull
    rw [h1, h2, hl]
    cases lowestFree s <;> simp
  simp [noteTableFull, h]

/-- A happening after which an entry is FREE raises nothing. -/
theorem noteTableFull_free {s t : State} (h : lowestFree t ≠ none) : noteTableFull s t = t := by
  have h' : bringsTableFull s t = false := by
    unfold bringsTableFull
    cases ht : lowestFree t with
    | none => exact absurd ht h
    | some _ => simp
  simp [noteTableFull, h']

/-- Heads are ready alike where the classes and the quiesce state are alike in what R91 reads. -/
theorem headReady_congr {s t : State} (h : ∀ c, (t.cls c).queue = (s.cls c).queue ∧
      (t.cls c).outstanding = (s.cls c).outstanding ∧ (t.cls c).state = (s.cls c).state ∧
      (t.cls c).remaining = (s.cls c).remaining ∧ (t.cls c).active = (s.cls c).active)
    (hq : t.quiesce = s.quiesce) (hf : t.flush = s.flush) (c : ClassId) :
    headReady t c = headReady s c := by
  obtain ⟨h1, h2, h3, h4, h5⟩ := h c
  simp only [headReady, h1, h2, h3, h4, h5, flushInForce, hq, hf]

theorem lowestFree_congr {s t : State} (h : t.entries = s.entries) : lowestFree t = lowestFree s := by
  simp [lowestFree, State.entry, h]

/-- A change of one class that R91 does not read raises nothing. -/
theorem noteTableFull_setCls {s t : State} {n : ClassId} {k : ClassRec} (ht : t = s.setCls n k)
    (h : k.queue = (s.cls n).queue ∧ k.outstanding = (s.cls n).outstanding ∧
      k.state = (s.cls n).state ∧ k.remaining = (s.cls n).remaining ∧ k.active = (s.cls n).active) :
    noteTableFull s t = t := by
  subst ht
  refine noteTableFull_same (lowestFree_congr rfl) id fun c hc => ?_
  rw [← headReady_congr (s := s) (t := s.setCls n k) (fun d => ?_) rfl rfl c]
  · exact hc
  · rw [State.cls_setCls]
    split
    · next e =>
      subst e
      exact h
    · exact ⟨rfl, rfl, rfl, rfl, rfl⟩

/-- A change of nothing that R91 and R99 read raises nothing. -/
theorem noteTableFull_elsewhere {s t : State} (he : t.entries = s.entries) (ht : t.through = s.through)
    (hc : t.classes = s.classes) (hq : t.quiesce = s.quiesce) (hf : t.flush = s.flush) :
    noteTableFull s t = t := by
  refine noteTableFull_same (lowestFree_congr he) (fun h => ht.trans h) fun c hr => ?_
  rwa [headReady_congr (s := s) (t := t) (fun d => by simp [State.cls, hc]) hq hf c] at hr

theorem noteTableFull_flags : FlagsKept t (noteTableFull s t) := by
  rcases noteTableFull_cases s t with h | h <;> rw [h]
  · exact .inl rfl
  · exact .inr rfl

/-- The test of R99 leaves its state but for a TABLE-FULL that has been raised. -/
theorem noteTableFull_upTo : UpToTableFull t (noteTableFull s t) := ⟨noteTableFull_eq s t, noteTableFull_flags s t⟩

/-! ### Free entries and heads -/

theorem lowestFree_ne_none : lowestFree s ≠ none ↔ ∃ k, s.entry k = none := by
  simp [lowestFree, List.find?_eq_none]

theorem nextHead_ne_none : nextHead s ≠ none ↔ ∃ c, eligible s c = true := by
  have hm : ∀ p c : ClassId, c ∈ rrOrder p := by decide
  simp [nextHead, List.find?_eq_none, hm]

/-! ### The choice that follows a happening (R94) -/

/-- The three conditions of R94, as the model tests them. -/
theorem choiceOpen_iff : choiceOpen s = true ↔ ChoiceOpen s := by
  simp only [choiceOpen, ChoiceOpen, Bool.and_eq_true, Option.isNone_iff_eq_none, Bool.or_eq_true,
    Option.isSome_iff_ne_none, lowestFree_ne_none, nextHead_ne_none, and_assoc]

/-- Where no choice is opened nothing follows. -/
theorem follow_idle {s u : State} (h : ChoiceOpen s ∨ ¬ ChoiceOpen u) : follow s u = u := by
  have h' : (choiceOpen u && !choiceOpen s) = false := by
    rw [← choiceOpen_iff, ← choiceOpen_iff] at h
    cases hu : choiceOpen u <;> cases hs : choiceOpen s <;> simp_all
  simp [follow, h']

/-- Where a choice is opened its grant is taken. -/
theorem follow_grant {s u : State} (hs : ¬ ChoiceOpen s) (hu : ChoiceOpen u) :
    follow s u = noteTableFull u (grantNext u) := by
  rw [← choiceOpen_iff] at hs hu
  simp [follow, hs, hu]

@[simp] theorem follow_self : follow s s = s := by
  by_cases h : ChoiceOpen s
  · exact follow_idle (.inl h)
  · exact follow_idle (.inr h)

/-- What follows a happening leaves its state, or is the grant of a choice that it has opened. -/
theorem follow_cases : follow s t = t ∨
    (¬ ChoiceOpen s ∧ ChoiceOpen t ∧ follow s t = noteTableFull t (grantNext t)) := by
  by_cases hs : ChoiceOpen s
  · exact .inl (follow_idle (.inl hs))
  · by_cases ht : ChoiceOpen t
    · exact .inr ⟨hs, ht, follow_grant hs ht⟩
    · exact .inl (follow_idle (.inr ht))

/-- A change of nothing that R94 reads opens no choice. -/
theorem follow_elsewhere {s t : State} (h : choiceOpen t = choiceOpen s) : follow s t = t := by
  simp [follow, h]

/-- The grant of an open choice is that of the through slot or that of a head. -/
theorem grantNext_cases : grantNext s = grantThrough s ∨ grantNext s = grantQueues s := by
  unfold grantNext
  split
  · exact .inl rfl
  · exact .inr rfl

/-! ### Happenings and frames -/

theorem happening_high {f : State → State} (h : s.resetN = .high) :
    happening s f = .next (noted f s) := by simp [happening, h]

/-- A happening that is taken leaves the state or the result of its operation. -/
theorem happening_cases {f : State → State} (h : happening s f = .next t) :
    t = s ∨ t = noted f s := by
  unfold happening at h
  split at h <;> cases h
  · exact .inr rfl
  · exact .inl rfl

/-- A grant that is taken in a state with an open choice, as its row takes it. -/
theorem happening_open {f : State → State} (h : s.resetN = .high) (ho : ChoiceOpen s) :
    happening s f = .next (noteTableFull s (f s)) := by
  rw [happening_high s h, noted, follow_idle (.inl ho)]

/-- What follows a happening is what the rows of the grants take (R94, R95). -/
theorem follow_taken {s v : State} (hr : v.resetN = .high) : ChoiceTaken s v (follow s v) := by
  refine ⟨follow_idle, fun hs hv ht hm => ?_, fun hs hv hc hm => ?_⟩
  · have hg : throughGranted v = true := by
      simp only [throughGranted, Bool.and_eq_true, Bool.or_eq_true, Option.isNone_iff_eq_none, decide_eq_true_eq]
      refine ⟨hv.1, hm.symm.imp (fun hn => ?_) id⟩
      by_contra h
      obtain ⟨c, hc⟩ := (nextHead_ne_none v).1 h
      simp [hn c] at hc
    have he : exec .grantThroughSlot v = happening v grantThrough := rfl
    rw [he, happening_open v hr hv, follow_grant hs hv, grantNext,
      if_pos (by simp [Option.isSome_iff_ne_none, ht, hg])]
  · have hg : (v.through.isSome && throughGranted v) = false := by
      rcases hm with hm | hm
      · have hn : (nextHead v).isNone = false := by
          simpa [Option.isSome_iff_ne_none] using (nextHead_ne_none v).2 hc
        simp [throughGranted, hm, hn]
      · simp [hm]
    have he : exec .grantHead v = happening v grantQueues := rfl
    rw [he, happening_open v hr hv, follow_grant hs hv, grantNext, hg]
    rfl

/-- A change with what follows it. -/
theorem noted_follows {f : State → State} (hr : (f s).resetN = .high) : Follows s (f s) (noted f s) := by
  refine ⟨_, noteTableFull_upTo s (f s), follow_taken ?_⟩
  rw [noteTableFull_eq]
  exact hr

theorem manage_listening {code o f : Byte} {v : Word32} {run : State → State × Answer}
    (h : Listening s) :
    manage code o f v run s = .next { noted (fun s => (run s).1) s with
      port := closedPort (commandBits code o f v) code (run s).2 (noted (fun s => (run s).1) s) } := by
  simp [manage, manageWhole, noting, closeFrame, h.1, h.2]

/-- The response held after a close is the command's answer. -/
theorem closedPort_answers (code : Byte) (bits : List Bool) (a : Answer) :
    Answers { s with port := closedPort bits code a s } code a.status a.value := ⟨rfl, rfl, rfl⟩

/-- A command whose effect brings no TABLE-FULL about and opens no choice leaves its effect and its answer. -/
theorem manage_only {code o f : Byte} {v : Word32} {run : State → State × Answer} {u : State}
    {a : Answer} (h : Listening s) (hr : run s = (u, a)) (hn : noteTableFull s u = u)
    (hc : choiceOpen u = choiceOpen s) :
    ∃ t, manage code o f v run s = .next t ∧ OnlyPort u t ∧ Answers t code a.status a.value := by
  have hu : noted (fun s => (run s).1) s = u := by
    rw [noted, hr, hn, follow_elsewhere hc]
  rw [manage_listening s h, hu, hr]
  exact ⟨_, rfl, rfl, closedPort_answers ..⟩

/-- A refused command leaves all but the port (R163, R167). -/
theorem manage_refused {code o f : Byte} {v : Word32} {run : State → State × Answer} {st : Status}
    (h : Listening s) (hr : run s = (s, refusal st)) :
    ∃ t, manage code o f v run s = .next t ∧ RefusedWith s t code st :=
  manage_only s h hr (noteTableFull_self s) rfl

/-- A command leaves its effect, with what follows it in the same happening, and its answer. -/
theorem manage_follows {code o f : Byte} {v : Word32} {run : State → State × Answer} {u : State}
    {a : Answer} (h : Listening s) (hr : run s = (u, a)) (hu : u.resetN = .high) :
    ∃ t, manage code o f v run s = .next t ∧ FollowsPort s u t ∧ Answers t code a.status a.value := by
  have hf := noted_follows s (f := fun s => (run s).1) (by rw [hr]; exact hu)
  rw [manage_listening s h]
  refine ⟨_, rfl, ⟨_, ?_, rfl⟩, ?_⟩
  · simpa only [hr] using hf
  · rw [hr]
    exact closedPort_answers ..

/-- A command of the port ignores, idles, or closes its frame over its effect and what follows. -/
theorem manageWhole_cases {code o f : Byte} {v : Word32} {run : State → State × Answer} {rest : State → State}
    (h : manageWhole code o f v run rest s = .next t) :
    t = s ∨ (∃ p, t = { s with port := p }) ∨ ∃ p, t = { rest (run s).1 with port := p } := by
  unfold manageWhole closeFrame at h
  split at h
  · split at h <;> cases h
    · exact .inr (.inl ⟨_, rfl⟩)
    · exact .inr (.inr ⟨_, rfl⟩)
  · cases h
    exact .inl rfl

/-- The same of a command whose effect is followed by the test of R99 and the choice of R94. -/
theorem manage_cases {code o f : Byte} {v : Word32} {run : State → State × Answer}
    (h : manage code o f v run s = .next t) :
    t = s ∨ (∃ p, t = { s with port := p }) ∨
      ∃ p, t = { noted (fun s => (run s).1) s with port := p } := manageWhole_cases s t h

/-! ### QUIESCED (R157) -/

/-- The test of the drain leaves the state, or makes it QUIESCED and raises the flag. -/
theorem testDrain_cases : testDrain s = s ∨
    (s.quiesce = .quiescing ∧ drained s = true ∧
      testDrain s = raiseGlobal .quiesced { s with quiesce := .quiesced }) := by
  unfold testDrain
  split
  · next h => exact .inr ⟨h.1, h.2, rfl⟩
  · exact .inl rfl

/-! ### New decisions (R77) -/

/-- A decision of the presented request takes place or not. -/
theorem decidePresented_cases : decidePresented s = s ∨
    ∃ r c, s.up = .presented r c ∧ acceptance s = true ∧ decidePresented s = decideRequest r s := by
  unfold decidePresented
  split
  · next r c h =>
    split
    · next ha => exact .inr ⟨r, c, h, ha, rfl⟩
    · exact .inl rfl
  · exact .inl rfl

theorem redecide_cases : redecide s = s ∨ redecide s = decidePresented s := by
  unfold redecide
  split
  · exact .inr rfl
  · exact .inl rfl

theorem redecideAt_cases (c : ClassId) : redecideAt c s = s ∨ redecideAt c s = decidePresented s := by
  unfold redecideAt
  split
  · exact .inr rfl
  · exact .inl rfl

/-- Without a stalled request there is no new decision. -/
theorem redecide_of_none (h : stalledAt s = none) : redecide s = s := by simp [redecide, h]

theorem redecideAt_of_ne {c : ClassId} (h : stalledAt s ≠ some c) : redecideAt c s = s := by
  simp [redecideAt, h]

/-- A delivery to every class is an update of every class. -/
@[simp] theorem deliverAll_eq (f : ClassId → ClassRec → ClassRec × Bool) :
    deliverAll f s = s.mapCls fun c k => (f c k).1 := rfl

/-! ### The choice of a response (R120) -/

/-- A busy arbiter makes no choice. -/
theorem chooseGenerated_of_busy (h : s.upResp ≠ .free) : chooseGenerated s = s := by simp [chooseGenerated, h]

/-- The choice of a generated response leaves the state, or gives the free arbiter one. -/
theorem chooseGenerated_cases : chooseGenerated s = s ∨
    (s.upResp = .free ∧ ∃ source tag n, chooseGenerated s = { s with upResp := .generated source tag n }) := by
  unfold chooseGenerated
  split
  · next hu =>
    split
    · exact .inr ⟨hu, _, _, _, rfl⟩
    · split
      · split
        · exact .inr ⟨hu, _, _, _, rfl⟩
        · exact .inl rfl
      · exact .inl rfl
  · exact .inl rfl

/-- The choice of a live response leaves the state, or passes the first beat that waits downstream. -/
theorem chooseLive_cases : chooseLive s = s ∨
    (s.upResp = .free ∧ ∃ b f, s.standing = some b ∧ s.entry b.tag = some f ∧ f.phase = .pending ∧
      chooseLive s = passFirst b f { s with standing := none }) := by
  unfold chooseLive
  split
  · next hu =>
    split
    · next b hb =>
      split
      · next f he =>
        split
        · next hp => exact .inr ⟨hu, b, f, hb, he, hp, rfl⟩
        · exact .inl rfl
      · exact .inl rfl
    · exact .inl rfl
  · exact .inl rfl

/-- A busy arbiter makes no choice, of a live response either. -/
theorem arbitrate_of_busy (h : s.upResp ≠ .free) : arbitrate s = s := by
  simp [arbitrate, chooseGenerated_of_busy s h, chooseLive, h]

/-- The lowest-numbered entry that owes its TIMEOUT response is the one found. -/
theorem lowestOwed_of_lowest {s : State} {k : EntryIndex} {f : Flight} (h : s.entry k = some f)
    (ho : f.owed = true) (hl : ∀ j g, j < k → s.entry j = some g → g.owed = false) :
    lowestOwed s = some k := by
  unfold lowestOwed
  rw [List.find?_eq_some_iff_getElem]
  refine ⟨by simp [h, ho], k.val, by simp, by simp, fun j hj => ?_⟩
  simp only [List.getElem_finRange, Fin.cast_mk]
  split
  · next g hg => simp [hl _ g (by simpa [Fin.lt_def] using hj) hg]
  · rfl

/-- None is found exactly where nothing is owed. -/
theorem lowestOwed_eq_none : lowestOwed s = none ↔ NothingOwed s := by
  simp only [lowestOwed, List.find?_eq_none, List.mem_finRange, forall_true_left, NothingOwed]
  refine forall_congr' fun k => ⟨fun h f hf => ?_, fun h => ?_⟩
  · simpa [hf] using h
  · split
    · next f hf => simp [h f hf]
    · simp

/-- The completion of an entry's response is the end of its life (R112). -/
theorem completeEntry_endOfLife (k : EntryIndex) (f : Flight) (status : RespStatus) :
    EndOfLife f status (s.setEntry k none) (completeEntry k f status s) := by
  refine ⟨fun hc => ?_, fun c hc => ?_⟩
  · unfold completeEntry
    rw [hc]
  · unfold completeEntry
    rw [hc]
    rfl

/-- What the first beat of a live response does (R110, R111). -/
theorem passFirst_begins (b : DownBeat) (f : Flight) : LiveBegins b f s (passFirst b f s) := by
  refine ⟨fun hk hl => ?_, fun hk hl => ?_, fun hk => ?_⟩ <;> (unfold passFirst; dsimp only; rw [hk])
  · dsimp only
    rw [hl]
    rfl
  · dsimp only
    rw [hl]
    exact completeEntry_endOfLife ..
  · exact completeEntry_endOfLife ..

/-- What the choice of the arbiter does (R120). -/
theorem arbitrate_arbitrates : Arbitrates s (arbitrate s) := by
  have hg (hu : s.upResp = .free) (hx : s.refused = none) (hn : NothingOwed s) : chooseGenerated s = s := by
    simp [chooseGenerated, hu, hx, (lowestOwed_eq_none s).2 hn]
  refine ⟨arbitrate_of_busy s, ?_, ?_, ?_, ?_⟩
  · intro hu x hx
    simp [arbitrate, chooseGenerated, hu, hx, chooseLive]
  · intro hu hx k f hf ho hl
    simp [arbitrate, chooseGenerated, hu, hx, lowestOwed_of_lowest hf ho hl, hf, chooseLive]
  · intro hu hx hn b f hb hf hp
    have e : arbitrate s = passFirst b f { s with standing := none } := by
      simp [arbitrate, hg hu hx hn, chooseLive, hu, hb, hf, hp]
    rw [e]
    exact passFirst_begins ..
  · intro hu hx hn hw
    rw [arbitrate, hg hu hx hn]
    rcases chooseLive_cases s with e | ⟨_, b, f, h1, h2, h3, _⟩
    · exact e
    · exact absurd ⟨b, f, h1, h2, h3⟩ hw

/-- Where a generated response waits, the choice is that of a generated one (R120). -/
theorem arbitrate_of_generated (h : s.refused ≠ none ∨ ¬ NothingOwed s) : arbitrate s = chooseGenerated s := by
  by_cases hu : s.upResp = .free
  · have hb : (chooseGenerated s).upResp ≠ .free := by
      cases hx : s.refused with
      | some x => simp [chooseGenerated, hu, hx]
      | none =>
        have hn : ¬ NothingOwed s := h.resolve_left (fun e => e hx)
        rw [← lowestOwed_eq_none] at hn
        obtain ⟨k, hk⟩ := Option.ne_none_iff_exists'.1 hn
        have ho := List.find?_some hk
        split at ho
        · next f hf => simp [chooseGenerated, hu, hx, hk, hf]
        · cases ho
    simp [arbitrate, chooseLive, hb]
  · rw [arbitrate_of_busy s hu, chooseGenerated_of_busy s hu]

/-- The offer of a first beat leaves the state, or makes the beat wait on the open channel for its PENDING entry
(R109). -/
theorem presentFirst_cases (presented : Option DownBeat) : presentFirst presented s = s ∨
    ∃ b f, presented = some b ∧ downstreamOpen s = true ∧ s.entry b.tag = some f ∧ f.phase = .pending ∧
      presentFirst presented s = { s with standing := some b } := by
  unfold presentFirst
  split
  · next b =>
    split
    · next f he =>
      split
      · next h => exact .inr ⟨b, f, rfl, h.1, he, h.2, rfl⟩
      · exact .inl rfl
    · exact .inl rfl
  · exact .inl rfl

/-! ### Completion notices (R128) -/

/-- The class's record after the notice, before any capture. -/
def noticed (c : ClassId) (f : Flight) (status : RespStatus) (s : State) : State :=
  s.setCls c { s.cls c with live := noticeStats s.edges f status s.timebase (s.cls c).live }

/-- A notice updates the live record, and then writes no capture record, writes one, or drops one (R139, R140). -/
theorem completionNotice_cases (c : ClassId) (f : Flight) (status : RespStatus) :
    completionNotice c f status s = noticed c f status s ∨
    (s.log.length < Config.logRecords ∧ completionNotice c f status s =
      ({ noticed c f status s with log := s.log ++ [captureOf c f status s.timebase] } : State).setCls c
        (raiseAt .capture ((noticed c f status s).cls c))) ∨
    (¬ s.log.length < Config.logRecords ∧ completionNotice c f status s =
      raiseGlobal .captureLost { noticed c f status s with lost := satAdd Config.lostMax s.lost 1 }) := by
  unfold completionNotice
  dsimp only
  split
  · unfold logCapture
    split
    · next h => exact .inr (.inl ⟨h, rfl⟩)
    · next h => exact .inr (.inr ⟨h, rfl⟩)
  · exact .inl rfl

/-! ### Ticks that have been taken -/

theorem classTakesTick_of_taken {n : ClassId} (h : (s.cls n).tickOwed = false) :
    classTakesTick n s = s := by
  simp [classTakesTick, atClass, takeOwedTick, h]

theorem classTakesCopy_of_taken (line : Line) {n : ClassId}
    (h : (s.cls n).frameOwed = false ∧ (s.cls n).gateOwed = false) : classTakesCopy line n s = s := by
  cases line <;> simp [classTakesCopy, atClass, takeOwedCopy, h.1, h.2]

@[simp] theorem takeCopies_nil (line : Line) : takeCopies line [] s = s := rfl

/-- The first class of the list takes its copy, and then the others take theirs. -/
theorem takeCopies_cons (line : Line) (n : ClassId) (l : List ClassId) :
    takeCopies line (n :: l) s = takeCopies line l (noted (classTakesCopy line n) s) := rfl

/-- What each class's copy does, the copies of a list do one after the other. -/
theorem takeCopies_taken {taken : ClassId → State → State → Prop} (line : Line)
    (h : ∀ n u, u.resetN = .high → (noted (classTakesCopy line n) u).resetN = .high ∧
      taken n u (noted (classTakesCopy line n) u)) (l : List ClassId) :
    ∀ u : State, u.resetN = .high → CopiesTaken taken l u (takeCopies line l u) := by
  induction l with
  | nil => exact fun _ _ => rfl
  | cons n l ih => exact fun u hu => ⟨_, (h n u hu).2, ih _ (h n u hu).1⟩

theorem reachDeadline_of_not {k : EntryIndex}
    (h : ∀ f, s.entry k = some f → ¬ (f.phase = .pending ∧ f.deadline = some s.timebase)) :
    reachDeadline k s = s := by
  unfold reachDeadline
  split
  · next f hf => simp [h f hf]
  · rfl

/-- A fold of steps that leave the state leaves the state. -/
theorem foldl_fixed {α : Type} (g : State → α → State) (l : List α) (h : ∀ a, g s a = s) :
    l.foldl g s = s := by
  induction l with
  | nil => rfl
  | cons a l ih => simp [h a, ih]

/-- When every happening of the last tick has been taken, nothing is left to settle. -/
theorem settleTick_of_taken (h : TickTaken s) : settleTick s = s := by
  obtain ⟨he, hc, hf, hg, hd⟩ := h
  have h0 (line : Line) : settleCopies line s = s :=
    foldl_fixed s _ _ fun n => by simp [noted, classTakesCopy_of_taken s line (he n)]
  have h1 : settleClasses s = s :=
    foldl_fixed s _ _ fun n => by simp [noted, classTakesTick_of_taken s (hc n)]
  have h2 : settleLine .frame s = s := by simp [settleLine, State.filter, hf]
  have h3 : settleLine .gate s = s := by simp [settleLine, State.filter, hg]
  have h4 : settleDeadlines s = s :=
    foldl_fixed s _ _ fun k => by simp [noted, reachDeadline_of_not s (hd k)]
  simp [settleTick, h0, h1, h2, h3, h4]

/-! ### The downstream request channel -/

theorem chooseGenerated_down : (chooseGenerated s).down = s.down := by
  rcases chooseGenerated_cases s with e | ⟨-, _, _, _, e⟩ <;> rw [e]

theorem attemptJoin_down (c : ClassId) (r : Request) : (attemptJoin c r s).down = s.down := by
  unfold attemptJoin
  split
  · simp [joinQueue]
  · dsimp only
    split
    · simp [enterRefused, chooseGenerated_down, fillRefused]
    · simp

theorem overBudgetStep_down (c : ClassId) (r : Request) : (overBudgetStep c r s).down = s.down := by
  unfold overBudgetStep
  dsimp only
  split
  · simp [attemptJoin_down]
  · simp [passMarked, enterThrough]
  · simp [enterRefused, chooseGenerated_down, fillRefused]

/-- A new decision leaves the downstream request channel. -/
theorem decidePresented_down : (decidePresented s).down = s.down := by
  rcases decidePresented_cases s with e | ⟨r, c, -, -, e⟩ <;> rw [e]
  unfold decideRequest
  split
  · rfl
  · unfold decideClassed
    dsimp only
    repeat' split
    all_goals simp [attemptJoin_down, overBudgetStep_down, passUnregulated, passCharged, enterThrough]

theorem redecide_down : (redecide s).down = s.down := by
  rcases redecide_cases s with e | e <;> rw [e]
  exact decidePresented_down s

theorem testDrain_down : (testDrain s).down = s.down := by
  rcases testDrain_cases s with e | ⟨-, -, e⟩ <;> rw [e]
  rfl

/-- The grant of an open choice takes the downstream request channel (R94). -/
theorem grantNext_down (h : ChoiceOpen s) : (grantNext s).down ≠ none := by
  obtain ⟨k, hk⟩ := Option.ne_none_iff_exists'.1 ((lowestFree_ne_none s).2 h.2.1)
  unfold grantNext
  split
  · next hg =>
    simp only [Bool.and_eq_true, Option.isSome_iff_exists] at hg
    obtain ⟨⟨a, ha⟩, hg⟩ := hg
    simp only [grantThrough, ha, hk, hg, if_true, testDrain_down, atAllClasses]
    split <;> simp [redecide_down, takeThrough, forwardOut]
  · next hg =>
    have hn : nextHead s ≠ none := by
      intro hn
      have ht := h.2.2.resolve_right fun hc => (nextHead_ne_none s).2 hc hn
      apply hg
      simp [Option.isSome_iff_ne_none, ht, throughGranted, h.1, hn]
    obtain ⟨c, hc⟩ := Option.ne_none_iff_exists'.1 hn
    have he : eligible s c = true := List.find?_some hc
    have hq : queuesGranted s = true := by
      cases ht : s.through with
      | none => simp [queuesGranted, h.1, ht]
      | some a =>
        have hm : s.altMark ≠ .throughSlot := by simpa [ht, throughGranted, h.1, hc] using hg
        cases hm' : s.altMark with
        | throughSlot => exact absurd hm' hm
        | holdQueues => simp [queuesGranted, h.1, hm']
    cases hl : (s.cls c).queue with
    | nil => simp [eligible, headReady, hl] at he
    | cons a rest => simp [grantQueues, hc, hk, hl, hq, testDrain_down, redecide_down, takeHead, forwardOut]

/-- What follows a happening leaves no choice open that it has opened (R94). -/
theorem follow_closed (h : ¬ ChoiceOpen s) : ¬ ChoiceOpen (follow s t) := by
  rcases follow_cases s t with e | ⟨-, ho, e⟩
  · rw [e]
    intro ht
    rw [follow_grant h ht] at e
    have := grantNext_down t ht
    have hd : (noteTableFull t (grantNext t)).down = (grantNext t).down := by rw [noteTableFull_eq]
    rw [e] at hd
    exact this (hd ▸ ht.1)
  · rw [e]
    intro hc
    have hd : (noteTableFull t (grantNext t)).down = (grantNext t).down := by rw [noteTableFull_eq]
    exact grantNext_down t ho (hd ▸ hc.1)

end Sys2Proof.Machine
end

