-- ==== Sys2Proof/Laws/Classes.lean ====
section
/-! SUPPORT. What the happenings of the period engine and of the contract store leave of a class: its hold queue, its
outstanding count, its staging contract and its repeat setting. -/

namespace Sys2Proof.Machine

/-- The parts of a class that no period happening, COMMIT, START or STOP changes. -/
structure KeepsTraffic (k l : ClassRec) : Prop where
  queue : l.queue = k.queue
  outstanding : l.outstanding = k.outstanding
  staging : l.staging = k.staging
  oneShot : l.oneShot = k.oneShot

namespace KeepsTraffic

theorem refl (k : ClassRec) : KeepsTraffic k k := ⟨rfl, rfl, rfl, rfl⟩

theorem trans {k l m : ClassRec} (h : KeepsTraffic k l) (h' : KeepsTraffic l m) : KeepsTraffic k m :=
  ⟨h'.queue.trans h.queue, h'.outstanding.trans h.outstanding, h'.staging.trans h.staging,
    h'.oneShot.trans h.oneShot⟩

end KeepsTraffic

theorem raiseAt_keepsTraffic (kind : ClassKind) (k : ClassRec) : KeepsTraffic k (raiseAt kind k) := by
  cases kind <;> exact ⟨rfl, rfl, rfl, rfl⟩

theorem applyWaiting_keepsTraffic (k : ClassRec) : KeepsTraffic k (applyWaiting k) := by
  unfold applyWaiting
  split <;> exact ⟨rfl, rfl, rfl, rfl⟩

theorem keepCopies_keepsTraffic (k : ClassRec) : KeepsTraffic k (keepCopies k) := ⟨rfl, rfl, rfl, rfl⟩

theorem beginNext_keepsTraffic (gate : Level) (early : Bool) (old : Contract) (k : ClassRec) :
    KeepsTraffic k (beginNext gate early old k) := by
  unfold beginNext
  dsimp only
  repeat' split
  all_goals exact ⟨rfl, rfl, rfl, rfl⟩

theorem boundary_keepsTraffic (gate : Level) (early : Bool) (k : ClassRec) :
    KeepsTraffic k (boundary gate early k) := by
  have h1 : KeepsTraffic k (keepCopies (applyWaiting (closePeriod k))) :=
    KeepsTraffic.trans (l := closePeriod k) ⟨rfl, rfl, rfl, rfl⟩
      ((applyWaiting_keepsTraffic _).trans (keepCopies_keepsTraffic _))
  have h2 : KeepsTraffic k
      (if early then raiseAt .shortPeriod (keepCopies (applyWaiting (closePeriod k)))
        else keepCopies (applyWaiting (closePeriod k))) := by
    split
    · exact h1.trans (raiseAt_keepsTraffic _ _)
    · exact h1
  unfold boundary
  dsimp only
  split
  · exact h2.trans ⟨rfl, rfl, rfl, rfl⟩
  · exact h2.trans (beginNext_keepsTraffic _ _ _ _)

theorem advance_keepsTraffic (gate : Level) (k : ClassRec) : KeepsTraffic k (advance gate k).1 := by
  unfold advance
  split
  · exact boundary_keepsTraffic _ _ _
  · exact ⟨rfl, rfl, rfl, rfl⟩

theorem takeTick_keepsTraffic (gate : Level) (k : ClassRec) : KeepsTraffic k (takeTick gate k).1 := by
  unfold takeTick
  split
  · exact advance_keepsTraffic _ _
  · exact .refl k

theorem takeOwedTick_keepsTraffic (gate : Level) (k : ClassRec) :
    KeepsTraffic k (takeOwedTick gate k).1 := by
  unfold takeOwedTick
  split
  · exact KeepsTraffic.trans (l := { k with tickOwed := false }) ⟨rfl, rfl, rfl, rfl⟩
      (takeTick_keepsTraffic _ _)
  · exact .refl k

theorem tickDelivered_keepsTraffic (later : Bool) (k : ClassRec) :
    KeepsTraffic k (tickDelivered later k) := by
  unfold tickDelivered
  repeat' split
  all_goals exact ⟨rfl, rfl, rfl, rfl⟩

theorem frameEdge_keepsTraffic (gate edge : Level) (k : ClassRec) :
    KeepsTraffic k (frameEdge gate edge k).1 := by
  unfold frameEdge
  repeat' split
  all_goals first
    | exact boundary_keepsTraffic _ _ _
    | exact ⟨rfl, rfl, rfl, rfl⟩

theorem gateChange_keepsTraffic (level : Level) (k : ClassRec) :
    KeepsTraffic k (gateChange level k).1 := by
  unfold gateChange
  repeat' split
  all_goals exact ⟨rfl, rfl, rfl, rfl⟩

theorem oweCopy_keepsTraffic (line : Line) (k : ClassRec) : KeepsTraffic k (oweCopy line k) := by
  unfold oweCopy
  repeat' split
  all_goals exact ⟨rfl, rfl, rfl, rfl⟩

theorem takeOwedCopy_keepsTraffic (line : Line) (gate level : Level) (k : ClassRec) :
    KeepsTraffic k (takeOwedCopy line gate level k).1 := by
  cases line <;> dsimp only [takeOwedCopy] <;> split
  · exact KeepsTraffic.trans (l := { k with frameOwed := false }) ⟨rfl, rfl, rfl, rfl⟩
      (frameEdge_keepsTraffic _ _ _)
  · exact .refl k
  · exact KeepsTraffic.trans (l := { k with gateOwed := false }) ⟨rfl, rfl, rfl, rfl⟩
      (gateChange_keepsTraffic _ _)
  · exact .refl k

theorem forwardNotice_keepsTraffic (gate : Level) (c : Option ClassId) (k : ClassRec) :
    KeepsTraffic k (forwardNotice gate c k).1 := by
  unfold forwardNotice referenceNotice
  repeat' split
  all_goals first
    | exact advance_keepsTraffic _ _
    | exact ⟨rfl, rfl, rfl, rfl⟩

theorem commitClass_keepsTraffic (k : ClassRec) : KeepsTraffic k (commitClass k).1 := by
  unfold commitClass
  split <;> exact ⟨rfl, rfl, rfl, rfl⟩

theorem startClass_keepsTraffic (gate : Level) (k : ClassRec) : KeepsTraffic k (startClass gate k) := by
  unfold startClass
  split <;> exact ⟨rfl, rfl, rfl, rfl⟩

theorem stopClass_keepsTraffic (k : ClassRec) : KeepsTraffic k (stopClass k) :=
  (applyWaiting_keepsTraffic k).trans ⟨rfl, rfl, rfl, rfl⟩

theorem setOverrun_keepsTraffic (k : ClassRec) : KeepsTraffic k (setOverrun k) := by
  unfold setOverrun
  split
  · exact .refl k
  · have h := raiseAt_keepsTraffic .overrun
      { k with
        overrun := true
        live := { k.live with overBudgetPeriods := bump k.live.overBudgetPeriods 1 } }
    exact ⟨h.queue, h.outstanding, h.staging, h.oneShot⟩

/-! ### The tables of the boundary and of the FRAME edge -/

theorem gateActive_iff (l : Level) (p : Polarity) : gateActive l p = true ↔ Matches l p := by
  cases l <;> cases p <;> simp [gateActive, Matches]

theorem qualifying_iff (l : Level) (p : Polarity) : qualifying l p = true ↔ Matches l p := by
  cases l <;> cases p <;> simp [qualifying, Matches]

/-- A boundary leaves what R28, R42, R43, R48 and R49 say. -/
theorem boundary_leaves (gate : Level) (early : Bool) (k : ClassRec) :
    BoundaryLeaves gate early k (boundary gate early k) := by
  have hw : k.waiting = none ∨ ∃ w, k.waiting = some w := by cases k.waiting <;> simp
  constructor <;> intros <;> rcases hw with hw | ⟨w, hw⟩ <;> cases early <;>
    simp_all [boundary, applyWaiting, closePeriod, keepCopies, expireClass, beginNext, periodClosed,
      nextContract, raiseAt, refill, refilled, gateActive_iff]
  all_goals
    rename_i h
    rcases h with h | h <;> simp_all

/-- A FRAME edge leaves what R41 to R44 and R60 say. -/
theorem frameEdge_leaves (gate edge : Level) (k : ClassRec) :
    FrameEdgeLeaves gate edge k (frameEdge gate edge k).1 := by
  constructor <;> intros <;> simp_all [frameEdge, ← qualifying_iff, refill, refilled, boundary_leaves]
  rename_i h
  cases hm : k.active.mode <;> cases hs : k.state <;> simp_all

/-- A FRAME edge hands a notice on exactly where it changes the class's state or refills it (R37). -/
theorem frameEdge_notice (gate edge : Level) (k : ClassRec) :
    (frameEdge gate edge k).2 = true ↔ FrameEdgeNotice edge k := by
  simp only [FrameEdgeNotice, ← qualifying_iff, frameEdge]
  cases k.active.mode <;> cases k.state <;> simp <;> cases qualifying edge k.active.polarity <;>
    simp <;> cases k.active.syncEnd <;> simp

/-! ### The predicate after a change of one class -/

/-- A property of every class after one class has changed. -/
theorem forall_setCls {Q : ClassId → ClassRec → Prop} {s : State} (h : ∀ c, Q c (s.cls c)) {n : ClassId}
    {k : ClassRec} (hk : Q n k) : ∀ c, Q c ((s.setCls n k).cls c) := by
  intro c
  rw [State.cls_setCls]
  split
  · next e =>
    subst e
    exact hk
  · exact h c

end Sys2Proof.Machine
end

