-- ==== Sys2Proof/Laws/Counts.lean ====
section
/-! SUPPORT. How the sums over the classes and over the in-flight entries follow an update of one of them. -/

namespace Sys2Proof.Machine

/-- A sum over `Fin n` after one summand has changed. -/
theorem sum_change {n : Nat} (f g : Fin n → Nat) (k : Fin n) (h : ∀ i, i ≠ k → g i = f i) :
    ((List.finRange n).map g).sum + f k = ((List.finRange n).map f).sum + g k := by
  simp only [← Fin.sum_univ_def]
  rw [← Finset.add_sum_erase Finset.univ g (Finset.mem_univ k),
    ← Finset.add_sum_erase Finset.univ f (Finset.mem_univ k)]
  have : ∑ i ∈ Finset.univ.erase k, g i = ∑ i ∈ Finset.univ.erase k, f i :=
    Finset.sum_congr rfl fun i hi => h i (Finset.ne_of_mem_erase hi)
  omega

/-- The hold store after one class has changed. -/
theorem heldTotal_setCls (s : State) (n : ClassId) (k : ClassRec) :
    heldTotal (s.setCls n k) + (s.cls n).queue.length = heldTotal s + k.queue.length := by
  have h := sum_change (fun c => (s.cls c).queue.length) (fun c => ((s.setCls n k).cls c).queue.length) n
    (fun i hi => by simp [State.cls_setCls_ne s k hi])
  simpa [heldTotal] using h

/-- The hold store depends on the queues' lengths alone. -/
theorem heldTotal_congr {s t : State} (h : ∀ c, (t.cls c).queue.length = (s.cls c).queue.length) :
    heldTotal t = heldTotal s := by
  unfold heldTotal
  congr 1
  exact List.map_congr_left fun c _ => h c

/-- A count as a sum of ones. -/
theorem countP_eq_sum {n : Nat} (p : Fin n → Bool) :
    (List.finRange n).countP p = ((List.finRange n).map fun k => (p k).toNat).sum := by
  induction List.finRange n with
  | nil => rfl
  | cons a l ih =>
    simp only [List.countP_cons, List.map_cons, List.sum_cons, ih]
    cases p a <;> simp; omega

/-- The PENDING and STREAMING requests of a class after one entry has changed. -/
theorem liveCount_setEntry (s : State) (k : EntryIndex) (e : Option Flight) (c : ClassId) :
    liveCount (s.setEntry k e) c + (liveOf c (s.entry k)).toNat = liveCount s c + (liveOf c e).toNat := by
  have h := sum_change (fun j => (liveOf c (s.entry j)).toNat)
    (fun j => (liveOf c ((s.setEntry k e).entry j)).toNat) k
    (fun i hi => by simp [State.entry_setEntry_ne s e hi])
  simpa [liveCount, countP_eq_sum] using h

/-- The count of a class's requests depends on the entries alone. -/
theorem liveCount_congr {s t : State} (h : t.entries = s.entries) (c : ClassId) :
    liveCount t c = liveCount s c := by
  unfold liveCount State.entry
  rw [h]

end Sys2Proof.Machine
end

