-- ==== Sys2Proof/Laws/Kept.lean ====
section
/-! SUPPORT. Every command is a composition of the elementary changes below. A property that each elementary change
keeps is kept by every command and by every step (`Kept.exec`, `Kept.step`). An invariant is then a
list of small goals, one for each change, most of them about fields that the change leaves alone. -/

namespace Sys2Proof.Machine

/-- The entry becomes FREE, and the outstanding count of its class falls (R112). -/
def freeEntry (k : EntryIndex) (f : Flight) (s : State) : State :=
  match f.cls with
  | none => s.setEntry k none
  | some c => lowerOutstanding c (s.setEntry k none)

/-- The entry becomes ABANDONED, and the outstanding count of its class falls (R114). -/
def loseEntry (k : EntryIndex) (f : Flight) (s : State) : State :=
  match f.cls with
  | none => s.setEntry k (some (abandonedFlight f))
  | some c => lowerOutstanding c (s.setEntry k (some (abandonedFlight f)))

/-- The elementary changes of the period engine, the contract store and the class's own records. -/
structure KeptClasses (P : State → Prop) : Prop where
  takeTick : ∀ s n g, P s → P (s.setCls n (takeOwedTick g (s.cls n)).1)
  tick : ∀ s f g l, P s → P (tickOnce f g l s)
  owe : ∀ s line, P s → P (oweCopies line s)
  takeCopy : ∀ s n line g l, P s → P (s.setCls n (takeOwedCopy line g l (s.cls n)).1)
  notices : ∀ s g c, P s → P (deliverAll (fun _ => forwardNotice g c) s)
  commit : ∀ s n, selfReference n (s.cls n).staging = false → P s →
    P (s.setCls n (commitClass (s.cls n)).1)
  discard : ∀ s n, P s → P (s.setCls n { s.cls n with waiting := none })
  setRepeat : ∀ s n b, P s → P (s.setCls n { s.cls n with oneShot := b })
  start : ∀ s n g, (s.cls n).state = .stopped → P s → P (s.setCls n (startClass g (s.cls n)))
  stop : ∀ s n, P s → P (s.setCls n (stopClass (s.cls n)))
  staging : ∀ s n i v, fieldInRange i v = true → P s →
    P (s.setCls n { s.cls n with staging := setContractField (s.cls n).staging i v })
  flagAt : ∀ s n kind, P s → P (s.setCls n (raiseAt kind (s.cls n)))
  clearFlags : ∀ s n, P s → P (s.setCls n { s.cls n with flags := noClassFlags })
  live : ∀ s n st, P s → P (s.setCls n { s.cls n with live := st })
  overrun : ∀ s n, regulated (s.cls n).state = true → P s → P (s.setCls n (setOverrun (s.cls n)))

/-- The elementary changes of the admission unit. -/
structure KeptAdmission (P : State → Prop) : Prop where
  offered : ∀ s r, s.up = .free → P s → P { s with up := .presented r none }
  bypass : ∀ s r c u, s.up = .presented r c → acceptance s = true → P s →
    P (enterThrough (acceptedRequest s r none false u) s)
  unregulated : ∀ s r c n, s.up = .presented r c → acceptance s = true → (s.cls n).queue = [] →
    regulated (s.cls n).state = false → (s.cls n).outstanding < Config.outstandingCeiling → P s →
    P (passUnregulated n r s)
  charged : ∀ s r c n, s.up = .presented r c → acceptance s = true → (s.cls n).queue = [] →
    regulated (s.cls n).state = true → (s.cls n).outstanding < (s.cls n).active.outLimit →
    chargeOf r ≤ (s.cls n).remaining → P s → P (passCharged n r s)
  marked : ∀ s r c n, s.up = .presented r c → acceptance s = true → (s.cls n).queue = [] →
    regulated (s.cls n).state = true → (s.cls n).outstanding < (s.cls n).active.outLimit → P s →
    P (passMarked n r s)
  refuse : ∀ s r c n, s.up = .presented r c → acceptance s = true → P s → P (fillRefused n r s)
  join : ∀ s r c n, s.up = .presented r c → acceptance s = true → canJoin s n = true → P s →
    P (joinQueue n r s)
  stall : ∀ s r c n, s.up = .presented r c → acceptance s = true → P s →
    P { s with up := .presented r (some n) }
  data : ∀ s place n d, s.up = .taking place n → P s →
    P { storeBeat place d s with up := afterBeat place n }

/-- The elementary changes of the in-flight table, the response arbiter and the measurement unit. -/
structure KeptResponses (P : State → Prop) : Prop where
  taken : ∀ s, P s → P { s with down := none }
  sent : ∀ s f, s.down = some f → P s → P { s with down := some { f with sent := f.sent + 1 } }
  generate : ∀ s source tag n, s.upResp = .free → P s →
    P { s with upResp := .generated source tag n }
  generated : ∀ s source tag n m, s.upResp = .generated source tag n → P s →
    P { s with upResp := .generated source tag m }
  refusedDone : ∀ s tag n, s.upResp = .generated .refusedSlot tag n → P s →
    P { s with refused := none, upResp := .free }
  timeoutDone : ∀ s k tag n, s.upResp = .generated (.owedTimeout k) tag n → P s →
    P (clearOwed k { s with upResp := .free })
  heldTaken : ∀ s k tag b st, s.upResp = .live k tag (some b) st false → P s →
    P { s with upResp := .live k tag none st false }
  release : ∀ s k tag b st, s.upResp = .live k tag (some b) st true → P s → P { s with upResp := .free }
  stand : ∀ s b f, downstreamOpen s = true → s.entry b.tag = some f → f.phase = .pending → P s →
    P { s with standing := some b }
  unstand : ∀ s, P s → P { s with standing := none }
  firstBeat : ∀ s k f b st, s.upResp = .free → s.standing = none → s.entry k = some f →
    f.phase = .pending → f.kind = .read → P s →
    P ((holdBeat k b st false s).setEntry k (some { f with firstBeat := some s.timebase, phase := .streaming }))
  firstEnds : ∀ s k f b st, s.upResp = .free → s.standing = none → s.entry k = some f →
    f.phase = .pending → P s → P (freeEntry k f (holdBeat k b st true s))
  nextBeat : ∀ s k tag h st b st', s.upResp = .live k tag h st false → b.tag = tag → P s →
    P (holdBeat k b st' false s)
  nextEnds : ∀ s k tag h st f b st', s.upResp = .live k tag h st false → b.tag = tag →
    s.entry k = some f → f.phase = .streaming → P s → P (freeEntry k f (holdBeat k b st' true s))
  nextEndsAlone : ∀ s k tag h st b st', s.upResp = .live k tag h st false → b.tag = tag →
    (∀ f, s.entry k = some f → f.phase ≠ .streaming) → P s → P (holdBeat k b st' true s)
  notice : ∀ s c f st, P s → P (completionNotice c f st s)
  lose : ∀ s k f, s.entry k = some f → f.phase = .pending → P s → P (loseEntry k f s)
  discarding : ∀ s d, s.standing = none → P s → P { s with discard := some d }
  discarded : ∀ s, P s → P { s with discard := none }
  consume : ∀ s k, s.standing = none → P s → P (consumeLate k s)
  consumeRest : ∀ s k, s.discard = some (.late k) → P s → P (consumeLate k { s with discard := none })

/-- The elementary changes of the other blocks. -/
structure KeptOthers (P : State → Prop) : Prop where
  raise : ∀ s kind, P s → P (raiseGlobal kind s)
  port : ∀ s p, P s → P { s with port := p }
  sample : ∀ s line raw, P s → P (s.setFilter line (takeDueSample raw (s.filter line)).1)
  filterSetting : ∀ s line setting v f, setFilterSetting (s.filter line) setting v = some f → P s →
    P (s.setFilter line f)
  tickDiv : ∀ s d, P s → P { s with tickDiv := d }
  edge : ∀ s (k : Fin 7) v, 1 ≤ v → v ≤ Config.intervalMax → edgeFits s.edges k v = true → P s →
    P { s with edges := s.edges.set k.val v k.isLt }
  lostZero : ∀ s, P s → P { s with lost := 0 }
  enables : ∀ s e, P s → P { s with enables := e }
  snapshot : ∀ s v, P s → P { s with snapshot := v }
  pop : ∀ s r rest, s.log = r :: rest → P s → P { s with log := rest, captureView := some r }
  clearGlobal : ∀ s, P s → P { s with gflags := noGlobalFlags }
  quiesceState : ∀ s q b, P s → P { s with quiesce := q, flush := b }
  regulator : ∀ s, P s → P (regulatorReset s)
  releaseReset : ∀ s p, s.resetN = .low → P s → P { s with resetN := .high, port := p }

/-- The property is kept by every elementary change other than a grant, a class map write and a pin
reset. -/
structure Kept (P : State → Prop) : Prop
    extends KeptClasses P, KeptAdmission P, KeptResponses P, KeptOthers P

/-- A grant of the through slot keeps the property. -/
def KeptByThrough (P : State → Prop) : Prop :=
  ∀ s k a, s.through = some a → lowestFree s = some k → s.down = none → P s → P (takeThrough k a s)

/-- A grant of a head keeps the property. -/
def KeptByHead (P : State → Prop) : Prop :=
  ∀ s n k a rest, nextHead s = some n → lowestFree s = some k → (s.cls n).queue = a :: rest →
    s.down = none → P s → P (takeHead n k a rest s)

/-- The grants keep the property. -/
def KeptByGrants (P : State → Prop) : Prop := KeptByThrough P ∧ KeptByHead P

/-- A class map write keeps the property. -/
def KeptByMap (P : State → Prop) : Prop := ∀ s m, P s → P { s with classMap := m }

/-- A pin reset gives the property. -/
def KeptByPins (P : State → Prop) : Prop := ∀ l, P { pinResetState with pending := l }

/-- Taking a command from the queue keeps the property. -/
def KeptByQueue (P : State → Prop) : Prop := ∀ s l, P s → P { s with pending := l }

/-- The commands that can write the class map. -/
def writesMap : Instr → Prop
  | .classMapWrite _ _ => True
  | .writeField _ _ _ => True
  | .frameClose _ => True
  | _ => False

/-- The effect of a good frame other than RESET-REGULATOR is that of one of the fourteen other commands, or the refusal
of an unknown code (R167). -/
theorem runCode_cases (code o f : Byte) (v : Word32) :
    runCode code o f v = runNop ∨ runCode code o f v = runReadField o f ∨
    runCode code o f v = runWriteField o f v ∨ runCode code o f v = runCommit o ∨
    runCode code o f v = runDiscard o ∨ runCode code o f v = runStart o ∨
    runCode code o f v = runStop o ∨ runCode code o f v = runSetRepeat o v ∨
    runCode code o f v = runSnapshot o v ∨ runCode code o f v = runPopCapture o ∨
    runCode code o f v = runReadEvents o ∨ runCode code o f v = runAbandon o ∨
    runCode code o f v = runQuiesce v ∨ runCode code o f v = runResume ∨
    runCode code o f v = fun s => (s, refusal .badCommand) := by
  unfold runCode
  split <;> simp only [true_or, or_true]

namespace Kept

variable {P : State → Prop} (h : Kept P)
include h

/-! ### Shared operations -/

theorem keptNoteTableFull {s t : State} (ht : P t) : P (noteTableFull s t) := by
  rcases noteTableFull_cases s t with e | e <;> rw [e]
  · exact ht
  · exact h.raise _ _ ht

theorem keptTestDrain {s : State} (hs : P s) : P (testDrain s) := by
  rcases testDrain_cases s with e | ⟨-, -, e⟩ <;> rw [e]
  · exact hs
  · exact h.raise _ _ (h.quiesceState s .quiesced s.flush hs)

/-! ### Admission -/

theorem keptChooseGenerated {s : State} (hs : P s) : P (chooseGenerated s) := by
  rcases chooseGenerated_cases s with e | ⟨hu, source, tag, n, e⟩ <;> rw [e]
  · exact hs
  · exact h.generate s source tag n hu hs

theorem keptEnterRefused {s : State} {r : Request} {c : Option ClassId} (n : ClassId)
    (hu : s.up = .presented r c) (ha : acceptance s = true) (hs : P s) : P (enterRefused n r s) :=
  h.keptChooseGenerated (h.refuse s r c n hu ha hs)

theorem keptAttemptJoin {s : State} {r : Request} {c : Option ClassId} (n : ClassId)
    (hu : s.up = .presented r c) (ha : acceptance s = true) (hs : P s) : P (attemptJoin n r s) := by
  unfold attemptJoin
  split
  · next hj => exact h.join s r c n hu ha hj hs
  · have hr := h.flagAt s n .holdFull hs
    simp only [State.updCls_eq]
    split
    · exact h.keptEnterRefused n hu ha hr
    · exact h.stall _ r c n hu ha hr

theorem keptOverBudget {s : State} {r : Request} {c : Option ClassId} {n : ClassId}
    (hu : s.up = .presented r c) (ha : acceptance s = true) (hq : (s.cls n).queue = [])
    (hreg : regulated (s.cls n).state = true)
    (ho : (s.cls n).outstanding < (s.cls n).active.outLimit) (hs : P s) :
    P (overBudgetStep n r s) := by
  have hm := h.overrun s n hreg hs
  have hk : ∀ k : ClassRec, (setOverrun k).queue = k.queue ∧ (setOverrun k).state = k.state ∧
      (setOverrun k).outstanding = k.outstanding ∧ (setOverrun k).active = k.active := by
    intro k
    unfold setOverrun
    split <;> simp
  obtain ⟨k1, k2, k3, k4⟩ := hk (s.cls n)
  unfold overBudgetStep
  simp only [State.updCls_eq]
  split
  · exact h.keptAttemptJoin n hu ha hm
  · refine h.marked _ r c n hu ha ?_ ?_ ?_ hm
    · simpa [k1] using hq
    · simpa [k2] using hreg
    · simpa [k3, k4] using ho
  · exact h.keptEnterRefused n hu ha hm

theorem keptDecideRequest {s : State} {r : Request} {c : Option ClassId}
    (hu : s.up = .presented r c) (ha : acceptance s = true) (hs : P s) : P (decideRequest r s) := by
  unfold decideRequest
  split
  · exact h.bypass s r c _ hu ha hs
  · next n _ =>
    unfold decideClassed
    dsimp only
    by_cases hq : (s.cls n).queue = []
    · simp only [hq, ne_eq, not_true_eq_false, if_false]
      cases hreg : regulated (s.cls n).state
      · simp only [if_true]
        split
        · next ho => exact h.unregulated s r c n hu ha hq hreg ho hs
        · exact h.keptAttemptJoin n hu ha hs
      · simp only [Bool.true_eq_false, if_false]
        split
        · exact h.keptAttemptJoin n hu ha hs
        · next ho =>
          split
          · next hc => exact h.charged s r c n hu ha hq hreg (Nat.lt_of_not_le ho) hc hs
          · exact h.keptOverBudget hu ha hq hreg (Nat.lt_of_not_le ho) hs
    · simp only [hq, ne_eq, not_false_eq_true, if_true]
      exact h.keptAttemptJoin n hu ha hs

theorem keptDecidePresented {s : State} (hs : P s) : P (decidePresented s) := by
  rcases decidePresented_cases s with e | ⟨r, c, hu, ha, e⟩ <;> rw [e]
  · exact hs
  · exact h.keptDecideRequest hu ha hs

theorem keptRedecide {s : State} (hs : P s) : P (redecide s) := by
  rcases redecide_cases s with e | e <;> rw [e]
  · exact hs
  · exact h.keptDecidePresented hs

theorem keptRedecideAt {s : State} (c : ClassId) (hs : P s) : P (redecideAt c s) := by
  rcases redecideAt_cases s c with e | e <;> rw [e]
  · exact hs
  · exact h.keptDecidePresented hs

theorem keptAtClass {s : State} {n : ClassId} {f : ClassRec → ClassRec × Bool}
    (hf : P (s.setCls n (f (s.cls n)).1)) : P (atClass n f s) := by
  unfold atClass
  dsimp only
  split
  · exact h.keptRedecideAt n hf
  · exact hf

theorem keptAtAllClasses {s : State} {f : ClassId → ClassRec → ClassRec × Bool}
    (hf : P (deliverAll f s)) : P (atAllClasses f s) := by
  unfold atAllClasses
  split
  · exact h.keptRedecide hf
  · exact hf

/-! ### Grants -/

theorem keptGrantThrough (ht : KeptByThrough P) {s : State} (hs : P s) : P (grantThrough s) := by
  unfold grantThrough
  split
  · next a k ha hk =>
    split
    · next hg =>
      have hd : s.down = none := by
        simp only [throughGranted, Bool.and_eq_true, Option.isNone_iff_eq_none] at hg
        exact hg.1
      exact h.keptTestDrain (h.keptAtAllClasses (h.notices _ _ _ (ht s k a ha hk hd hs)))
    · exact hs
  · exact hs

theorem keptGrantQueues (hh : KeptByHead P) {s : State} (hs : P s) : P (grantQueues s) := by
  unfold grantQueues
  split
  · next c k hc hk =>
    split
    · next a rest hq =>
      split
      · next hg =>
        have hd : s.down = none := by
          simp only [queuesGranted, Bool.and_eq_true, Option.isNone_iff_eq_none] at hg
          exact hg.1
        exact h.keptTestDrain (h.keptRedecide (h.notices _ _ _ (hh s c k a rest hc hk hq hd hs)))
      · exact hs
    · exact hs
  · exact hs

/-! ### Happenings and frames, with the choice that follows -/

theorem keptFollow (hg : KeptByGrants P) {s t : State} (ht : P t) : P (follow s t) := by
  rcases follow_cases s t with e | ⟨-, -, e⟩ <;> rw [e]
  · exact ht
  · refine h.keptNoteTableFull ?_
    rcases grantNext_cases t with e | e <;> rw [e]
    · exact h.keptGrantThrough hg.1 ht
    · exact h.keptGrantQueues hg.2 ht

theorem keptNoted (hg : KeptByGrants P) {s : State} {f : State → State} (hf : P s → P (f s)) (hs : P s) :
    P (noted f s) := h.keptFollow hg (h.keptNoteTableFull (hf hs))

theorem keptHappening (hg : KeptByGrants P) {s t : State} {f : State → State} (hf : P s → P (f s)) (hs : P s)
    (e : happening s f = .next t) : P t := by
  rcases happening_cases s t e with rfl | rfl
  · exact hs
  · exact h.keptNoted hg hf hs

theorem keptManageWhole {s t : State} {code o f : Byte} {v : Word32} {run : State → State × Answer}
    {rest : State → State} (hf : P s → P (rest (run s).1)) (hs : P s)
    (e : manageWhole code o f v run rest s = .next t) : P t := by
  rcases manageWhole_cases s t e with rfl | ⟨p, rfl⟩ | ⟨p, rfl⟩
  · exact hs
  · exact h.port _ _ hs
  · exact h.port _ _ (hf hs)

theorem keptManage (hg : KeptByGrants P) {s t : State} {code o f : Byte} {v : Word32}
    {run : State → State × Answer} (hf : P s → P (run s).1) (hs : P s)
    (e : manage code o f v run s = .next t) : P t := by
  rcases manage_cases s t e with rfl | ⟨p, rfl⟩ | ⟨p, rfl⟩
  · exact hs
  · exact h.port _ _ hs
  · exact h.port _ _ (h.keptNoted hg (f := fun s => (run s).1) hf hs)

/-! ### Lines and ticks -/

theorem keptSampleLine {s : State} (line : Line) (raw : Level) (hs : P s) :
    P (sampleLine line raw s) := by
  have ht := h.sample s line raw hs
  unfold sampleLine
  dsimp only
  split
  · exact h.owe _ line ht
  · exact ht

theorem keptClassTakesTick {s : State} (n : ClassId) (hs : P s) : P (classTakesTick n s) :=
  h.keptAtClass (h.takeTick s n _ hs)

theorem keptNotice {s : State} (c : ClassId) (f : Flight) (st : RespStatus) (hs : P s) :
    P (testDrain (redecideAt c (completionNotice c f st s))) :=
  h.keptTestDrain (h.keptRedecideAt c (h.notice s c f st hs))

theorem keptAbandonEntry {s : State} {k : EntryIndex} {f : Flight} (he : s.entry k = some f)
    (hp : f.phase = .pending) (hs : P s) : P (abandonEntry k f s) := by
  have hl := h.lose s k f he hp hs
  refine h.keptChooseGenerated ?_
  unfold loseRequest
  unfold loseEntry at hl
  dsimp only
  split
  · next hc =>
    rw [hc] at hl
    exact h.keptTestDrain hl
  · next c hc =>
    rw [hc] at hl
    exact h.keptNotice c f _ (h.flagAt _ c .timeout hl)

theorem keptReachDeadline {s : State} (k : EntryIndex) (hs : P s) : P (reachDeadline k s) := by
  unfold reachDeadline
  split
  · next f he =>
    split
    · next hp => exact h.keptAbandonEntry he hp.1 hs
    · exact hs
  · exact hs

omit h in
theorem keptFold {α : Type} (g : State → α → State) (hg : ∀ t a, P t → P (g t a)) (l : List α) :
    ∀ s, P s → P (l.foldl g s) := by
  induction l with
  | nil => exact fun _ hs => hs
  | cons a l ih => exact fun s hs => ih _ (hg s a hs)

theorem keptTakeCopies (hg : KeptByGrants P) {s : State} (line : Line) (l : List ClassId) (hs : P s) :
    P (takeCopies line l s) :=
  keptFold _ (fun _ n ht => h.keptNoted hg (f := classTakesCopy line n)
    (fun x => h.keptAtClass (h.takeCopy _ n line _ _ x)) ht) l s hs

theorem keptTakeEdge (hg : KeptByGrants P) {s : State} (line : Line) (taking : EdgeTaking) (hs : P s) :
    P (takeEdge line taking s) := by
  refine h.keptTakeCopies hg line _ ?_
  split
  · unfold sampleInTurn
    refine h.keptSampleLine line _ ?_
    split
    · exact h.keptTakeCopies hg line _ hs
    · exact hs
  · exact hs

theorem keptSettleLine (hg : KeptByGrants P) {s : State} (line : Line) (hs : P s) : P (settleLine line s) := by
  unfold settleLine
  split
  · exact h.keptTakeEdge hg line _ hs
  · exact hs

theorem keptSettleTick (hg : KeptByGrants P) {s : State} (hs : P s) : P (settleTick s) := by
  have h0 := h.keptTakeCopies hg .gate (List.finRange 16) (h.keptTakeCopies hg .frame (List.finRange 16) hs)
  have h1 : P (settleClasses (settleCopies .gate (settleCopies .frame s))) :=
    keptFold _ (fun t n ht => h.keptNoted hg (h.keptClassTakesTick n) ht) _ _ h0
  have h2 := h.keptSettleLine hg .gate (h.keptSettleLine hg .frame h1)
  exact keptFold _ (fun t k ht => h.keptNoted hg (h.keptReachDeadline k) ht) _ _ h2

/-! ### Responses -/

theorem keptCompleteEntry {s : State} {k : EntryIndex} {f g : Flight} {st : RespStatus}
    (hc : g.cls = f.cls) (hs : P (freeEntry k f s)) : P (completeEntry k g st s) := by
  unfold freeEntry at hs
  unfold completeEntry
  rw [hc]
  dsimp only
  split
  · next e =>
    rw [e] at hs
    exact h.keptTestDrain hs
  · next c e =>
    rw [e] at hs
    exact h.keptNotice c g st hs

theorem keptPassFirst {s : State} {b : DownBeat} {f : Flight} (hu : s.upResp = .free)
    (hw : s.standing = none) (he : s.entry b.tag = some f) (hp : f.phase = .pending) (hs : P s) :
    P (passFirst b f s) := by
  unfold passFirst
  dsimp only
  split
  · exact h.keptCompleteEntry rfl (h.firstEnds s b.tag f _ _ hu hw he hp hs)
  · next hk =>
    split
    · next hl =>
      simp only [hl]
      exact h.keptCompleteEntry rfl (h.firstEnds s b.tag f _ _ hu hw he hp hs)
    · next hl =>
      simp only [Bool.not_eq_true] at hl
      simp only [hl]
      exact h.firstBeat s b.tag f _ _ hu hw he hp hk hs

theorem keptArbitrate {s : State} (hs : P s) : P (arbitrate s) := by
  have hg := h.keptChooseGenerated hs
  rcases chooseLive_cases (chooseGenerated s) with e | ⟨hu, b, f, -, he, hp, e⟩ <;> rw [arbitrate, e]
  · exact hg
  · exact h.keptPassFirst (s := { chooseGenerated s with standing := none }) hu rfl he hp (h.unstand _ hg)

theorem keptPresentFirst {s : State} (presented : Option DownBeat) (hs : P s) :
    P (presentFirst presented s) := by
  rcases presentFirst_cases s presented with e | ⟨b, f, -, hd, he, hp, e⟩ <;> rw [e]
  · exact hs
  · exact h.stand s b f hd he hp hs

theorem keptPassNext {s : State} (b : DownBeat) (hs : P s) : P (passNext b s) := by
  unfold passNext
  split
  · next k tag held st hu =>
    dsimp only
    cases hl : b.last
    · have hn : ∀ f : Flight, ¬ (false = true ∧ f.phase = .streaming) := fun f x => by simp at x
      split
      · next f he =>
        rw [if_neg (hn f)]
        exact h.nextBeat s k tag held st _ _ hu rfl hs
      · exact h.nextBeat s k tag held st _ _ hu rfl hs
    · split
      · next f he =>
        split
        · next hp => exact h.keptCompleteEntry rfl (h.nextEnds s k tag held st f _ _ hu rfl he hp.2 hs)
        · next hp =>
          refine h.nextEndsAlone s k tag held st _ _ hu rfl ?_ hs
          intro g hg hq
          rw [show s.entry k = some f from he] at hg
          cases hg
          exact hp ⟨rfl, hq⟩
      · next he =>
        refine h.nextEndsAlone s k tag held st _ _ hu rfl ?_ hs
        intro g hg
        rw [show s.entry k = none from he] at hg
        cases hg
  · exact hs

theorem keptTakeHeld {s : State} (hs : P s) : P (takeHeld s) := by
  unfold takeHeld
  split
  · next k tag b st hu => exact h.keptArbitrate (h.release s k tag b st hu hs)
  · next k tag b st hu => exact h.heldTaken s k tag b st hu hs
  · exact hs

theorem keptTakeForward {s : State} (hs : P s) : P (takeForward s) := by
  unfold takeForward
  split
  · next f hd =>
    split
    · exact hs
    · split
      · exact h.taken s hs
      · exact h.sent s f hd hs
  · exact hs

theorem keptTakeGenerated {s : State} (hs : P s) : P (takeGenerated s) := by
  unfold takeGenerated
  split
  · next source tag n hu =>
    split
    · unfold endGenerated
      split
      · exact h.keptArbitrate (h.keptTestDrain (h.refusedDone s tag n hu hs))
      · next k => exact h.keptArbitrate (h.keptTestDrain (h.timeoutDone s k tag n hu hs))
    · exact h.generated s source tag n _ hu hs
  · exact hs

theorem keptNoteLate {s : State} (c : Option ClassId) (hs : P s) : P (noteLate c s) := by
  unfold noteLate
  split
  · exact hs
  · next n =>
    have h1 := h.live s n { (s.cls n).live with lateResponses := bump (s.cls n).live.lateResponses 1 } hs
    have h2 := h.flagAt _ n .late h1
    simpa using h2

omit h in
theorem noteLate_standing (c : Option ClassId) (s : State) : (noteLate c s).standing = s.standing := by
  unfold noteLate
  split
  · rfl
  · simp

theorem keptLateBeat {s : State} (b : DownBeat) (hs : P s) : P (lateBeat b s) := by
  have hw := h.unstand s hs
  unfold lateBeat
  split
  · next k hd =>
    split
    · exact h.consumeRest s k hd hs
    · exact hs
  · exact hs
  · split
    · exact hs
    · dsimp only
      split
      · next f _ =>
        split
        · have hn : (noteLate f.cls { s with standing := none }).standing = none := noteLate_standing ..
          unfold beginLate
          split
          · exact h.consume _ _ hn (h.keptNoteLate f.cls hw)
          · exact h.discarding _ _ hn (h.keptNoteLate f.cls hw)
        · exact hs
      · exact hs

theorem keptBeginStray {s : State} (ends : Bool) (hw : s.standing = none) (hs : P s) :
    P (beginStray ends s) := by
  have hr := h.raise s .stray hs
  unfold beginStray
  dsimp only
  split
  · exact hr
  · exact h.discarding _ _ hw hr

theorem keptStrayBeat {s : State} (b : DownBeat) (hs : P s) : P (strayBeat b s) := by
  have hw := h.unstand s hs
  unfold strayBeat
  split
  · split
    · exact h.discarded _ hs
    · exact hs
  · exact hs
  · split
    · exact hs
    · dsimp only
      split
      · exact h.keptBeginStray _ rfl hw
      · split
        · exact h.keptBeginStray _ rfl hw
        · exact hs

/-! ### Management commands -/

theorem keptStagingWrite {s : State} (n : ClassId) (i : Fin 14) (v : Word32) (hs : P s) :
    P (runStagingWrite n i v s).1 := by
  unfold runStagingWrite
  split
  · next hv => exact h.staging s n i _ hv hs
  · exact hs

theorem keptClassMapWrite (hm : KeptByMap P) {s : State} (f : Byte) (v : Word32) (hs : P s) :
    P (runClassMapWrite f v s).1 := by
  unfold runClassMapWrite
  split
  · split
    · unfold redecideByMap
      dsimp only
      split
      · split
        · exact hm s _ hs
        · exact h.keptDecidePresented (hm s _ hs)
      · exact hm s _ hs
    · exact hs
  · exact hs

theorem keptTickDivWrite {s : State} (v : Word32) (hs : P s) : P (runTickDivWrite v s).1 := by
  unfold runTickDivWrite
  split
  · split
    · exact h.tickDiv s _ hs
    · exact hs
  · exact hs

theorem keptFilterWrite {s : State} (line : Line) (setting : FilterSetting) (v : Word32)
    (hs : P s) : P (runFilterWrite line setting v s).1 := by
  unfold runFilterWrite
  split
  · next f hf =>
    split
    · exact hs
    · exact h.filterSetting s line setting v f hf hs
  · exact hs

theorem keptEdgeWrite {s : State} (f : Byte) (v : Word32) (hs : P s) : P (runEdgeWrite f v s).1 := by
  unfold runEdgeWrite
  split
  · next hf =>
    split
    · exact hs
    · next hr =>
      split
      · exact hs
      · next he =>
        split
        · exact h.edge s ⟨f.toNat, hf⟩ v.toNat (by omega) (by omega) (by simpa using he) hs
        · exact hs
  · exact hs

theorem keptLostWrite {s : State} (v : Word32) (hs : P s) : P (runLostWrite v s).1 := by
  unfold runLostWrite
  split
  · exact h.lostZero s hs
  · exact hs

theorem keptEnableWrite {s : State} (kind : Fin 11) (v : Word32) (hs : P s) :
    P (runEnableWrite kind v s).1 := by
  unfold runEnableWrite
  split
  · exact h.enables s _ hs
  · split
    · exact h.enables s _ hs
    · exact hs

theorem keptWriteField (hm : KeptByMap P) {s : State} (o f : Byte) (v : Word32) (hs : P s) :
    P (runWriteField o f v s).1 := by
  unfold runWriteField
  split
  · next item _ =>
    unfold runItemWrite
    split
    · exact h.keptStagingWrite _ _ v hs
    · exact h.keptClassMapWrite hm _ v hs
    · exact h.keptTickDivWrite v hs
    · exact h.keptFilterWrite _ _ v hs
    · exact h.keptEdgeWrite _ v hs
    · exact h.keptLostWrite v hs
    · exact h.keptEnableWrite _ v hs
  · exact hs

omit h in
theorem keptOnClass {s : State} (o : Byte) {run : ClassId → State × Answer}
    (hr : ∀ n, P (run n).1) (hs : P s) : P (onClass o s run).1 := by
  unfold onClass
  split
  · exact hr _
  · exact hs

theorem keptCommit {s : State} (o : Byte) (hs : P s) : P (runCommit o s).1 := by
  refine keptOnClass o (fun n => ?_) hs
  unfold commitAt
  split
  · exact hs
  · next hn => exact h.keptAtClass (h.commit s n (by simpa using hn) hs)

theorem keptDiscard {s : State} (o : Byte) (hs : P s) : P (runDiscard o s).1 := by
  refine keptOnClass o (fun n => ?_) hs
  unfold discardAt
  split
  · exact h.discard s n hs
  · exact hs

theorem keptSetRepeat {s : State} (o : Byte) (v : Word32) (hs : P s) : P (runSetRepeat o v s).1 := by
  refine keptOnClass o (fun n => ?_) hs
  unfold setRepeatAt
  split
  · exact h.setRepeat s n _ hs
  · split
    · exact h.setRepeat s n _ hs
    · exact hs

theorem keptStart {s : State} (o : Byte) (hs : P s) : P (runStart o s).1 := by
  refine keptOnClass o (fun n => ?_) hs
  unfold startAt
  split
  · next hn => exact h.keptAtClass (f := fun k => (startClass s.gate.level k, true)) (h.start s n _ hn hs)
  · exact hs

theorem keptStop {s : State} (o : Byte) (hs : P s) : P (runStop o s).1 := by
  refine keptOnClass o (fun n => ?_) hs
  unfold stopAt
  split
  · exact hs
  · exact h.keptAtClass (f := fun k => (stopClass k, true)) (h.stop s n hs)

theorem keptAbandon {s : State} (o : Byte) (hs : P s) : P (runAbandon o s).1 := by
  unfold runAbandon
  split
  · unfold abandonAt
    split
    · next f he =>
      split
      · next hp => exact h.keptAbandonEntry he hp hs
      · exact hs
    · exact hs
  · exact hs

theorem keptSnapshot {s : State} (o : Byte) (v : Word32) (hs : P s) : P (runSnapshot o v s).1 := by
  refine keptOnClass o (fun n => ?_) hs
  unfold snapshotAt takeSnapshot
  split
  · exact h.snapshot s _ hs
  · split
    · exact h.live _ n _ (h.snapshot s _ hs)
    · exact hs

theorem keptPopCapture {s : State} (o : Byte) (hs : P s) : P (runPopCapture o s).1 := by
  unfold runPopCapture
  split
  · split
    · next r rest hl => exact h.pop s r rest hl hs
    · exact hs
  · exact hs

theorem keptReadEvents {s : State} (o : Byte) (hs : P s) : P (runReadEvents o s).1 := by
  unfold runReadEvents
  split
  · exact h.clearFlags s _ hs
  · split
    · exact h.clearGlobal s hs
    · exact hs

theorem keptQuiesce {s : State} (v : Word32) (hs : P s) : P (runQuiesce v s).1 := by
  unfold runQuiesce
  split
  · split
    · exact h.keptTestDrain (h.quiesceState s _ _ hs)
    · exact hs
  · exact hs

theorem keptResume {s : State} (hs : P s) : P (runResume s).1 := by
  unfold runResume
  split
  · exact hs
  · exact h.keptDecidePresented (h.quiesceState s _ _ hs)

theorem keptAfterReset (hg : KeptByGrants P) (s : State) {t : State} (ht : P t) : P (afterReset s t) := by
  refine h.keptFollow hg (h.keptNoteTableFull ?_)
  dsimp only [decideAtReset]
  split
  · exact h.keptDecidePresented ht
  · exact h.keptRedecide ht

theorem keptResetRegulator (hg : KeptByGrants P) {s : State} (hs : P s) :
    P (afterReset s (runResetRegulator s).1) := h.keptAfterReset hg s (h.regulator s hs)

theorem keptRunCode (hm : KeptByMap P) {s : State} (code o f : Byte) (v : Word32) (hs : P s) :
    P (runCode code o f v s).1 := by
  rcases runCode_cases code o f v with e | e | e | e | e | e | e | e | e | e | e | e | e | e | e <;>
    rw [e]
  · exact hs
  · exact hs
  · exact h.keptWriteField hm o f v hs
  · exact h.keptCommit o hs
  · exact h.keptDiscard o hs
  · exact h.keptStart o hs
  · exact h.keptStop o hs
  · exact h.keptSetRepeat o v hs
  · exact h.keptSnapshot o v hs
  · exact h.keptPopCapture o hs
  · exact h.keptReadEvents o hs
  · exact h.keptAbandon o hs
  · exact h.keptQuiesce v hs
  · exact h.keptResume hs
  · exact hs

theorem keptRunFrame (hg : KeptByGrants P) (hm : KeptByMap P) {s : State} (code o f : Byte) (v : Word32)
    (hs : P s) : P (afterFrame code s (runFrame code o f v s).1) := by
  unfold runFrame afterFrame
  split
  · exact h.keptResetRegulator hg hs
  · exact h.keptNoted hg (f := fun s => (runCode code o f v s).1) (h.keptRunCode hm code o f v) hs

theorem keptCloseFrame {s : State} {bits : List Bool} {echo : Byte} {run : State → State × Answer}
    {rest : State → State} (hf : P (rest (run s).1)) (hs : P s) : P (closeFrame bits echo run rest s) := by
  unfold closeFrame
  split
  · exact h.port _ _ hs
  · exact h.port _ _ hf

/-! ### Every command -/

/-- A property kept by the elementary changes and by the grants is kept by every command. The changes that one kind of
command alone makes (a class map write, a pin reset) are asked for of that kind alone. -/
theorem execOf (c : Instr) (hg : KeptByGrants P) (hm : writesMap c → KeptByMap P)
    (hp : c = .pinReset → KeptByPins P) {s t : State} (hs : P s)
    (e : Machine.exec c s = .next t) : P t := by
  cases c <;> dsimp only [Machine.exec] at e
  case tick f g l =>
    have ho (x : P s) : P (tickOnce f g l (settleTick s)) := h.tick _ f g l (h.keptSettleTick hg x)
    exact h.keptHappening hg (f := fun x => tickOnce f g l (settleTick x)) ho hs e
  case periodBoundary n => exact h.keptHappening hg (h.keptClassTakesTick n) hs e
  case filterEdge line taking =>
    unfold execFilterEdge at e
    split at e <;> cases e
    · exact h.keptTakeEdge hg line taking hs
    · exact hs
  case admissionDecision offered =>
    refine h.keptHappening hg (fun x => ?_) hs e
    have h1 : P (offerHeader offered s) := by
      unfold offerHeader
      split
      · next r hu => exact h.offered s r hu x
      · exact x
    unfold decideUndecided
    split
    · exact h.keptDecidePresented h1
    · exact h1
  case grantThroughSlot => exact h.keptHappening hg (h.keptGrantThrough hg.1) hs e
  case grantHead => exact h.keptHappening hg (h.keptGrantQueues hg.2) hs e
  case downstreamRequestTaken => exact h.keptHappening hg h.keptTakeForward hs e
  case upstreamResponseChoice p =>
    unfold execUpstreamResponseChoice at e
    split at e
    · cases e
    · exact h.keptHappening hg (f := fun s => arbitrate (presentFirst p s))
        (fun x => h.keptArbitrate (h.keptPresentFirst p x)) hs e
  case liveResponseBeat b => exact h.keptHappening hg (h.keptPassNext b) hs e
  case deadline k => exact h.keptHappening hg (h.keptReachDeadline k) hs e
  case lateResponse b => exact h.keptHappening hg (h.keptLateBeat b) hs e
  case strayResponse b => exact h.keptHappening hg (h.keptStrayBeat b) hs e
  case generatedResponseBeat => exact h.keptHappening hg h.keptTakeGenerated hs e
  case quiesced => exact h.keptHappening hg h.keptTestDrain hs e
  case frameClose bits =>
    unfold execFrameClose at e
    split at e
    · split at e <;> cases e
      · exact h.keptCloseFrame hs hs
      · exact h.keptCloseFrame hs hs
      · exact h.keptCloseFrame (h.keptRunFrame hg (hm trivial) _ _ _ _ hs) hs
    · cases e
      exact hs
  case nop => exact h.keptManage hg (fun x => x) hs e
  case readField => exact h.keptManage hg (fun x => x) hs e
  case writeField => exact h.keptManage hg (h.keptWriteField (hm trivial) _ _ _) hs e
  case stagingWrite => exact h.keptManage hg (h.keptStagingWrite _ _ _) hs e
  case classMapWrite => exact h.keptManage hg (h.keptClassMapWrite (hm trivial) _ _) hs e
  case tickDivWrite => exact h.keptManage hg (h.keptTickDivWrite _) hs e
  case filterSettingsWrite => exact h.keptManage hg (h.keptFilterWrite _ _ _) hs e
  case histogramEdgeWrite => exact h.keptManage hg (h.keptEdgeWrite _ _) hs e
  case lostCountWrite => exact h.keptManage hg (h.keptLostWrite _) hs e
  case alertEnableWrite => exact h.keptManage hg (h.keptEnableWrite _ _) hs e
  case commit => exact h.keptManage hg (h.keptCommit _) hs e
  case discardPending => exact h.keptManage hg (h.keptDiscard _) hs e
  case setRepeat => exact h.keptManage hg (h.keptSetRepeat _ _) hs e
  case start => exact h.keptManage hg (h.keptStart _) hs e
  case stop => exact h.keptManage hg (h.keptStop _) hs e
  case abandon => exact h.keptManage hg (h.keptAbandon _) hs e
  case snapshot => exact h.keptManage hg (h.keptSnapshot _ _) hs e
  case popCapture => exact h.keptManage hg (h.keptPopCapture _) hs e
  case readEvents => exact h.keptManage hg (h.keptReadEvents _) hs e
  case quiesce => exact h.keptManage hg (h.keptQuiesce _) hs e
  case resume => exact h.keptManage hg h.keptResume hs e
  case resetRegulator => exact h.keptManageWhole (h.keptResetRegulator hg) hs e
  case pinReset =>
    unfold execPinReset at e
    cases e
    exact hp rfl _
  case lastBeatTakenUpstream => exact h.keptHappening hg h.keptTakeHeld hs e
  case upstreamWriteDataBeat d =>
    refine h.keptHappening hg (fun x => ?_) hs e
    unfold takeDataBeat
    split
    · next place n hu => exact h.data s place n d hu x
    · exact x
  case resetNRelease f g m =>
    unfold execResetNRelease at e
    cases e
    split
    · next hl =>
      exact h.keptNoted hg (f := releaseReset f g m)
        (fun x => h.keptSampleLine _ _ (h.keptSampleLine _ _ (h.releaseReset s _ hl x))) hs
    · exact hs
  case frameOpen => exact h.keptHappening hg (h.port s _) hs e

/-- A property kept by every elementary change is kept by every step. -/
theorem keptStep (hq : KeptByQueue P) (ht : KeptByThrough P) (hh : KeptByHead P) (hm : KeptByMap P)
    (hp : KeptByPins P) {s t : State} (hs : P s) (e : Machine.step s = .next t) : P t := by
  unfold Machine.step at e
  split at e
  · cases e
    exact hs
  · next c rest _ =>
    exact h.execOf c ⟨ht, hh⟩ (fun _ => hm) (fun _ => hp) (hq s rest hs) e

end Kept

end Sys2Proof.Machine
end

