-- ==== Sys2Proof/WellFormed.lean ====
section
/-! DEFINITION. The commands that stand for a row of the table as the row describes itself. The types of the operands
carry every range; four rows ask for more. -/

namespace Sys2Proof

/-- A frame that is executed with one of the fifteen codes of R167 is that command's row. -/
def knownCode (code : Byte) : Bool :=
  [0x00, 0x01, 0x02, 0x10, 0x11, 0x12, 0x13, 0x14, 0x20, 0x21, 0x22, 0x30, 0x31, 0x32, 0x3F].contains
    code.toNat

/-- The row's own form: TICK and FILTER_EDGE name no class twice, WRITE_FIELD names a read-only item or none (a write of a
writable item is the row of that item), and FRAME_CLOSE carries no frame that another row stands for. -/
def wellFormed : Instr → Bool
  | .tick _ _ later => decide later.Nodup
  | .writeField o f _ =>
    match Machine.writableItem o f with
    | .ok _ => false
    | .error _ => true
  | .frameClose bits =>
    match Machine.judge bits with
    | .command code _ _ _ => !knownCode code
    | _ => true
  | .periodBoundary _ => true
  | .filterEdge _ taking => decide taking.now.Nodup
  | .admissionDecision _ => true
  | .grantThroughSlot => true
  | .grantHead => true
  | .downstreamRequestTaken => true
  | .upstreamResponseChoice _ => true
  | .liveResponseBeat _ => true
  | .deadline _ => true
  | .lateResponse _ => true
  | .strayResponse _ => true
  | .generatedResponseBeat => true
  | .quiesced => true
  | .nop _ _ _ => true
  | .readField _ _ _ => true
  | .stagingWrite _ _ _ => true
  | .classMapWrite _ _ => true
  | .tickDivWrite _ => true
  | .filterSettingsWrite _ _ _ => true
  | .histogramEdgeWrite _ _ => true
  | .lostCountWrite _ => true
  | .alertEnableWrite _ _ => true
  | .commit _ _ _ => true
  | .discardPending _ _ _ => true
  | .setRepeat _ _ _ => true
  | .start _ _ _ => true
  | .stop _ _ _ => true
  | .abandon _ _ _ => true
  | .snapshot _ _ _ => true
  | .popCapture _ _ _ => true
  | .readEvents _ _ _ => true
  | .quiesce _ _ _ => true
  | .resume _ _ _ => true
  | .resetRegulator _ _ _ => true
  | .pinReset => true
  | .lastBeatTakenUpstream => true
  | .upstreamWriteDataBeat _ => true
  | .resetNRelease _ _ _ => true
  | .frameOpen => true

end Sys2Proof
end

