-- ==== Sys2Proof/Tests/Slice0.lean ====
section
/-! SUPPORT. Tests of the commands against the spec's worked sequences and rules, the smoke test of WellFormed, and a
witness for the hypotheses of each statement of Certificates/Slice0/Obligations.lean. The theorems are checked one
after the other: all at once they ask for more threads than the check's memory limit allows. -/

set_option Elab.async false

namespace Sys2Proof.Tests

open Sys2Proof.Machine

/-! ### Small states -/

/-- The command has a next state, of which the property holds. -/
def leaves (c : Instr) (s : State) (p : State → Bool) : Bool :=
  match exec c s with
  | .next t => p t
  | _ => false

/-- A READ of 8 beats (charge 2) of initiator 5, upstream tag 17. -/
def readReq : Request := ⟨.read, 0x12, 7, 5, 17, 2⟩

/-- A WRITE of 2 beats (charge 1) of initiator 5, upstream tag 40. -/
def writeReq : Request := ⟨.write, 0x34, 1, 5, 40, 1⟩

/-- A READ of one beat. -/
def shortReq : Request := ⟨.read, 0x56, 0, 5, 3, 0⟩

/-- The state after reset with class `n` so, and initiator 5 mapped to class 3. -/
def withClass (n : ClassId) (k : ClassRec) : State :=
  ({ State.reset with classMap := State.reset.classMap.set 5 ⟨.cls 3, .cls 3⟩ } : State).setCls n k

/-- A class RUNNING in the given mode. -/
def runningIn (mode : Mode) : ClassRec :=
  { resetClass with
    state := .running
    remaining := 5
    active := { defaultContract with mode := mode, length := 50, budget := 6, carryCap := 3 } }

/-- A class RUNNING in TIMED. -/
def timed : ClassRec := runningIn .timed

/-- The class one tick before its boundary, owing that tick. -/
def atEnd (k : ClassRec) : ClassRec := { k with elapsed := 49, tickOwed := true }

/-- A request of a class as accepted. -/
def accepted (c : Option ClassId) (r : Request) : Accepted := ⟨r, c, chargeOf r, 0, false, r.urgency, []⟩

/-- A WRITE of 2 beats under tag 0 on the downstream request channel, with `n` beats taken. -/
def forwarded (data : List Data) (n : Nat) : Forward := ⟨⟨.write, 0x34, 1, 5, 0, 1⟩, data, n⟩

/-- A PENDING entry of class 4 with the deadline 200. -/
def pendingRead : Flight :=
  { phase := .pending, cls := some 4, kind := .read, address := 0x12, len := 7, initiator := 5, tag := 17
    marked := false, arrival := 0, forwardTime := 0, firstBeat := none, deadline := some 200
    owed := false, lateConsumed := false }

/-- The entry after its abandonment. -/
def abandonedRead : Flight := { pendingRead with phase := .abandoned, owed := true }

/-- The state after reset with entry `k` so. -/
def withEntry (k : EntryIndex) (f : Flight) : State := State.reset.setEntry k (some f)

/-- The answer after a command. -/
def answers (c : Instr) (s : State) (status : Status) (value : Word32) : Bool :=
  leaves c s fun t => decide (t.port.held.status = status) && decide (t.port.held.value = value)

/-! ### WellFormed -/

/-- TICK names no class twice. -/
theorem test_tick_names_class_twice : wellFormed (.tick .low .low [3, 3]) = false := by decide

/-- FILTER_EDGE names no class twice. -/
theorem test_filterEdge_names_class_twice : wellFormed (.filterEdge .gate ⟨none, [9, 2, 9]⟩) = false := by decide

/-- WRITE_FIELD on a writable item is the row of that item (R170). -/
theorem test_writeField_of_writable_item : wellFormed (.writeField 0x30 0x00 4) = false := by decide

/-- A good frame of a known code is the row of its command (R163, R167). -/
theorem test_frameClose_of_known_command :
    wellFormed (.frameClose (commandBits 0x13 0x05 0 0)) = false := by decide +kernel

/-- A frame of another code, or of another number of bits, is FRAME_CLOSE's own (R163, R167). -/
theorem test_frameClose_of_bad_frame :
    wellFormed (.frameClose (commandBits 0x03 0x05 0 0)) = true ∧
      wellFormed (.frameClose [true, false]) = true := by decide +kernel

/-- The table gives no row any bits. -/
theorem test_no_word_spells_a_command : decodeTableWord 32 0 = none := by decide

/-! ### The port (R162 to R174, the sequence of 11.8) -/

/-- The check byte of seven bytes of 00h is 00h, and a last bit of 1 leaves 07h (R164). -/
theorem test_check_byte :
    checkByte ((List.replicate 7 0x00#8).flatMap byteBits) = 0x00 ∧
      checkByte (([0x00, 0x00, 0x00, 0x00, 0x00, 0x00, 0x01] : List Byte).flatMap byteBits) = 0x07 := by
  decide +kernel

/-- 11.8, frame 1: READ-FIELD of the state of class 5, RUNNING, leaves OK, 01h, 2. -/
theorem test_frame_reads_class_state :
    leaves (.frameClose (commandBits 0x01 0x05 0x31 0)) (withClass 5 timed)
      (fun t => decide (t.port.held = ⟨.ok, 0x01, 2, 0x00⟩)) = true := by decide +kernel

/-- 11.8, frame 2: one bit of byte 7 disturbed leaves CHECK, 13h, 0 and the class RUNNING. -/
theorem test_frame_disturbed :
    leaves (.frameClose ((commandBits 0x13 0x05 0 0).take 63 ++
        ((commandBits 0x13 0x05 0 0).drop 63).map (!·))) (withClass 5 timed)
      (fun t => decide (t.port.held = ⟨.checkFailed, 0x13, 0, 0x00⟩) &&
        decide ((t.cls 5).state = .running)) = true := by decide +kernel

/-- 11.8, frame 5: 48 bits leave FRAMING, 01h, 0. -/
theorem test_frame_short :
    leaves (.frameClose ((commandBits 0x01 0x05 0x31 0).take 48)) (withClass 5 timed)
      (fun t => decide (t.port.held = ⟨.framing, 0x01, 0, 0x00⟩)) = true := by decide +kernel

/-- The part code is 416h (R171), and field 02h of the object names no item. -/
theorem test_identity :
    answers (.readField 0x3F 0x00 0) State.reset .ok 0x416 = true ∧
      answers (.readField 0x3F 0x02 0) State.reset .badField 0 = true := by decide +kernel

/-! ### Periods (the sequences of 2.7, 3.11 and 4.5) -/

/-- 3.11: leftover 5, refill 6 + min(5, 3). -/
theorem test_boundary_carries :
    leaves (.periodBoundary 2) (withClass 2 (atEnd timed))
      (fun t => decide ((t.cls 2).remaining = 9) && decide ((t.cls 2).elapsed = 0) &&
        decide ((t.cls 2).live.periodsCompleted = 1)) = true := by decide +kernel

/-- 3.11: a rising edge before the length raises SHORT-PERIOD and refills with 8 + min(5, 8). -/
theorem test_early_edge :
    leaves (.filterEdge .frame ⟨some .high, [4]⟩)
      (withClass 4 { runningIn .synced with
        elapsed := 40
        active := { defaultContract with mode := .synced, length := 100, budget := 8, carryCap := 8 } })
      (fun t => decide ((t.cls 4).remaining = 13) && decide ((t.cls 4).state = .running) &&
        (t.cls 4).flags.shortPeriod) = true := by decide +kernel

/-- 4.5, tick 28: the third low sample in a row suspends class 9. -/
theorem test_gate_closes :
    leaves (.filterEdge .gate ⟨some .low, [9]⟩)
      { withClass 9 { runningIn .gated with elapsed := 40 } with
        gate := ⟨.i4, 3, .high, 2, 3, .low, true⟩ }
      (fun t => decide ((t.cls 9).state = .suspended) && decide ((t.cls 9).elapsed = 40) &&
        decide (t.gate.level = .low) && decide (t.gate.run = 0)) = true := by decide +kernel

/-- A class waiting in ARMED. -/
def armed : ClassRec := { runningIn .synced with state := .armed, remaining := 0 }

/-- A request stalls at class 3, ARMED; a head of class 9, ARMED too, waits; the grant goes to the hold queues. -/
def stalledAtEdge : State :=
  { (withClass 3 { armed with active := { armed.active with holdLimit := 0 } }).setCls 9
      { armed with queue := [accepted (some 9) shortReq] } with
    up := .presented readReq (some 3)
    altMark := .holdQueues }

/-- R60: class 3 takes its copy first, so its request passes and is granted before the head of class 9 is eligible. -/
theorem test_edge_order_request_first :
    leaves (.filterEdge .frame ⟨some .high, [3, 9]⟩) stalledAtEdge
      (fun t => t.down.isSome && t.through.isNone && decide ((t.cls 9).queue.length = 1) &&
        decide ((t.cls 3).flags.holdFull = false)) = true := by decide +kernel

/-- R60, R77: class 9 takes its copy first, so its head is granted, and the request stalls again at class 3, still ARMED,
before its own copy; a class that the command does not name owes its copy. -/
theorem test_edge_order_head_first :
    leaves (.filterEdge .frame ⟨some .high, [9, 3]⟩) stalledAtEdge
      (fun t => t.down.isSome && t.through.isSome && decide ((t.cls 9).queue = []) &&
        (t.cls 3).flags.holdFull) = true ∧
    leaves (.filterEdge .frame ⟨some .high, [9]⟩) stalledAtEdge
      (fun t => (t.cls 3).frameOwed && decide ((t.cls 3).state = .armed) &&
        leaves (.filterEdge .frame ⟨none, [3]⟩) t (fun u => decide ((u.cls 3).state = .running) &&
          !(u.cls 3).frameOwed && u.through.isSome) &&
        leaves (.stop 0x03 0 0) t (fun u => !(u.cls 3).frameOwed)) = true := by decide +kernel

/-- A tick advances the timebase and the elapsed count by one (R33, R40). -/
theorem test_tick :
    leaves (.tick .low .low []) (withClass 2 timed)
      (fun t => decide (t.timebase = 1) && decide ((t.cls 2).elapsed = 1)) = true := by decide +kernel

/-- 2.7, step 5: a COMMIT that replaces a pending copy counts one superseded commit. -/
theorem test_commit_supersedes :
    leaves (.commit 0x06 0 0)
      (withClass 6 { timed with
        staging := { defaultContract with budget := 8, carryCap := 2 }
        waiting := some { defaultContract with budget := 20 } })
      (fun t => decide ((t.cls 6).live.supersededCommits = 1) &&
        decide ((t.cls 6).waiting.map (·.budget) = some 8) &&
        decide ((t.cls 6).active.budget = 6)) = true := by decide +kernel

/-- 2.7, step 8: DISCARD-PENDING without a pending copy answers EMPTY. -/
theorem test_discard_empty :
    answers (.discardPending 0x06 0 0) (withClass 6 timed) .empty 0 = true := by decide +kernel

/-- 2.7, step 10: STOP applies the pending copy at once. -/
theorem test_stop_applies :
    leaves (.stop 0x06 0 0) (withClass 6 { timed with waiting := some { defaultContract with budget := 8 } })
      (fun t => decide ((t.cls 6).state = .stopped) && decide ((t.cls 6).active.budget = 8) &&
        decide ((t.cls 6).remaining = 0)) = true := by decide +kernel

/-- START of a default contract is RUNNING with its budget (R17, R38). -/
theorem test_start :
    leaves (.start 0x0F 0 0) State.reset
      (fun t => decide ((t.cls 15).state = .running) && decide ((t.cls 15).remaining = 65535)) = true := by
  decide +kernel

/-- R29: 2 is no repeat setting. -/
theorem test_setRepeat_value :
    answers (.setRepeat 0x00 0 2) State.reset .badValue 0 = true := by decide +kernel

/-! ### Settings -/

/-- R18: an outstanding limit of 64 is in range and one of 65 is not. -/
theorem test_staging_range :
    answers (.stagingWrite 15 4 64) State.reset .ok 0 = true ∧
      answers (.stagingWrite 15 4 65) State.reset .badValue 0 = true := by decide +kernel

/-- R6, R165: the read class stands in bits 7 to 0, the write class in bits 15 to 8, and 10h is no class. -/
theorem test_class_map :
    leaves (.classMapWrite 0x3F 0x00000380) State.reset
      (fun t => decide (t.classMap[63] = ⟨.bypass, .cls 3⟩)) = true ∧
    answers (.classMapWrite 0x00 0x00001080) State.reset .badValue 0 = true := by decide +kernel

/-- R34: one RUNNING class refuses the write. -/
theorem test_tickDiv_state :
    answers (.tickDivWrite 4) (withClass 2 timed) .stateRefused 0 = true ∧
      answers (.tickDivWrite 5) State.reset .badValue 0 = true := by decide +kernel

/-- R62: an agreement count of 7 is in range and one of 8 is not. -/
theorem test_filter_settings :
    leaves (.filterSettingsWrite .gate .agreementCount 7) State.reset
      (fun t => decide (t.gate.agreement = 7)) = true ∧
    answers (.filterSettingsWrite .gate .agreementCount 8) State.reset .badValue 0 = true := by
  decide +kernel

/-- R63: under OFF the first sample is the next bus clock, so an owed tick samples nothing. -/
theorem test_filter_off_samples_nothing :
    (match exec (.filterSettingsWrite .gate .sampleInterval 0)
        { State.reset with gate := ⟨.i4, 2, .low, 1, 3, .high, true⟩ } with
    | .next t => leaves (.tick .low .low []) t (fun u => decide (u.gate.level = .low) && !u.gate.owed)
    | _ => false) = true := by decide +kernel

/-- R134: edge 0 is kept below edge 1, which is 32. -/
theorem test_edge_order :
    answers (.histogramEdgeWrite 0x00 31) State.reset .ok 0 = true ∧
      answers (.histogramEdgeWrite 0x00 32) State.reset .badValue 0 = true := by decide +kernel

/-- R142: the lost count takes 0 alone. -/
theorem test_lost_count :
    leaves (.lostCountWrite 0) { State.reset with lost := 9 } (fun t => decide (t.lost = 0)) = true ∧
      answers (.lostCountWrite 1) State.reset .badValue 0 = true := by decide +kernel

/-! ### Requests (the sequences of 5.11 and 6.10) -/

/-- 5.11, step 1: P of 8 beats is charged 2 and counted; on a free channel the through slot is granted in the same
happening (R94). -/
theorem test_request_charged :
    leaves (.admissionDecision (some readReq)) (withClass 3 timed)
      (fun t => decide ((t.cls 3).remaining = 3) && decide ((t.cls 3).outstanding = 1) &&
        t.through.isNone && decide (t.down.map (·.header.address) = some 0x12)) = true := by decide +kernel

/-- 5.11, step 10: a join at the hold limit raises HOLD-FULL, and REFUSE fills the refused slot. -/
theorem test_request_refused :
    leaves (.admissionDecision (some readReq))
      (withClass 3 { timed with
        queue := [accepted (some 3) shortReq]
        active := { timed.active with holdLimit := 1, overflow := .refuse } })
      (fun t => t.refused.isSome && (t.cls 3).flags.holdFull &&
        decide ((t.cls 3).live.requestsRefused = 1)) = true := by decide +kernel

/-- R177: the last data beat of a held WRITE is stored and frees the channel. -/
theorem test_write_data :
    leaves (.upstreamWriteDataBeat 0xAB)
      { withClass 3 { timed with queue := [accepted (some 3) writeReq] } with up := .taking (.held 3) 1 }
      (fun t => decide (t.up = .free) && decide ((t.cls 3).queue.map (·.data) = [[0xAB]])) = true := by
  decide +kernel

/-- 6.10, step 1: both sources wait and the mark points at the through slot, so Y is granted. -/
theorem test_grant_through :
    leaves .grantThroughSlot
      { withClass 5 { resetClass with queue := [accepted (some 5) shortReq] } with
        through := some (accepted none readReq) }
      (fun t => decide (t.down.map (·.header.tag) = some 0) && t.through.isNone &&
        decide (t.altMark = .holdQueues)) = true := by decide +kernel

/-- 6.10, step 3: from position 3 with the mark at the hold queues, class 5 is granted before class 2. -/
theorem test_grant_head :
    leaves .grantHead
      { (withClass 5 { resetClass with queue := [accepted (some 5) shortReq] }).setCls 2
          { resetClass with queue := [accepted (some 2) readReq] } with
        through := some (accepted none readReq)
        altMark := .holdQueues
        rrPos := 3 }
      (fun t => decide (t.rrPos = 5) && decide (t.altMark = .throughSlot) &&
        decide (t.down.map (·.header.address) = some 0x56)) = true := by decide +kernel

/-- 6.10, step 5: the entry that becomes FREE is taken by the next choice in the same happening, which raises TABLE-FULL
again while a head waits. -/
theorem test_freed_entry_granted :
    leaves (.liveResponseBeat ⟨63, 0, 0, true⟩)
      { withClass 2 { resetClass with queue := [accepted (some 2) shortReq] } with
        entries := (Vector.replicate 64 (some abandonedRead)).set 63
          (some { pendingRead with cls := none, phase := .streaming, firstBeat := some 0 })
        upResp := .live 63 17 none .okay false
        through := some (accepted none readReq) }
      (fun t => decide (t.down.map (·.header.tag) = some 63) && decide ((t.entry 63).map (·.cls) = some none) &&
        t.through.isNone && t.gflags.tableFull && decide (t.altMark = .holdQueues)) = true := by decide +kernel

/-- R94: the last beat of a forward frees the channel, and the head that waits is granted in the same happening. -/
theorem test_freed_channel_granted :
    leaves .downstreamRequestTaken
      { withClass 2 { resetClass with queue := [accepted (some 2) shortReq] } with down := some (forwarded [7, 8] 2) }
      (fun t => decide (t.down.map (·.header.address) = some 0x56) && decide (t.rrPos = 2)) = true := by
  decide +kernel

/-- R108, R178: the header of a WRITE is offered under its new tag, and taking it does not take the data beat behind it. -/
theorem test_forward_header :
    downRequestOffer { State.reset with down := some (forwarded [7] 0) } = some (.header 1 0x34 1 5 0 1) ∧
    leaves .downstreamRequestTaken { State.reset with down := some (forwarded [7] 0) }
      (fun t => decide (downRequestOffer t = some (.data 7))) = true := by decide +kernel

/-- R178: VALID falls while a data beat is still to come, and the last data beat frees the channel. -/
theorem test_forward_taken :
    leaves .downstreamRequestTaken { State.reset with down := some (forwarded [7] 1) }
      (fun t => t.down.isSome && (downRequestOffer t).isNone) = true ∧
    leaves .downstreamRequestTaken { State.reset with down := some (forwarded [7, 8] 2) }
      (fun t => t.down.isNone) = true := by decide +kernel

/-! ### Responses (the sequence of 7.7) -/

/-- 7.7, tick 1200: the deadline of a PENDING entry abandons it, and the outstanding count falls. -/
theorem test_deadline :
    leaves (.deadline 0)
      { (withEntry 0 pendingRead).setCls 4 { resetClass with outstanding := 1 } with timebase := 200 }
      (fun t => decide (t.entry 0 = some abandonedRead) && decide ((t.cls 4).outstanding = 0) &&
        (t.cls 4).flags.timeout && decide ((t.cls 4).live.timeouts = 1)) = true := by decide +kernel

/-- 7.7, tick 1240: the owed entry 0 is chosen, with 8 beats of tag 17. -/
theorem test_choice_owed :
    leaves (.upstreamResponseChoice none) (withEntry 0 abandonedRead)
      (fun t => decide (t.upResp = .generated (.owedTimeout 0) 17 8)) = true := by decide +kernel

/-- 7.7, tick 1244: the first beat of the late response raises LATE and is counted. -/
theorem test_late :
    leaves (.lateResponse ⟨0, 0, 1, false⟩) (withEntry 0 abandonedRead)
      (fun t => (t.cls 4).flags.late && decide ((t.cls 4).live.lateResponses = 1) &&
        decide (t.discard = some (.late 0))) = true := by decide +kernel

/-- 7.7, tick 1251: after the last beat of the TIMEOUT response an entry whose late response has gone is FREE. -/
theorem test_generated_end :
    leaves .generatedResponseBeat
      { withEntry 0 { abandonedRead with lateConsumed := true } with
        upResp := .generated (.owedTimeout 0) 17 1 }
      (fun t => (t.entry 0).isNone && decide (t.upResp = .free)) = true := by decide +kernel

/-- R118: a response that names a FREE entry raises STRAY. -/
theorem test_stray :
    leaves (.strayResponse ⟨63, 0, 1, true⟩) State.reset
      (fun t => t.gflags.stray && t.discard.isNone) = true := by decide +kernel

/-- R112, R179: the last beat completes with the first status other than OKAY. -/
theorem test_live_ends :
    leaves (.liveResponseBeat ⟨0, 0, 9, true⟩)
      { (withEntry 0 { pendingRead with phase := .streaming, firstBeat := some 0 }).setCls 4
          { resetClass with outstanding := 1 } with
        upResp := .live 0 17 none .dataError false }
      (fun t => (t.entry 0).isNone && decide ((t.cls 4).live.errorCompletions = 1) &&
        decide ((t.cls 4).outstanding = 0)) = true := by decide +kernel

/-- R180: after a beat that is not the last nothing is offered, and after the last the arbiter is free. -/
theorem test_last_beat :
    leaves .lastBeatTakenUpstream { State.reset with upResp := .live 0 17 (some ⟨17, .okay, 5, false⟩) .okay false }
      (fun t => decide (t.upResp = .live 0 17 none .okay false)) = true ∧
    leaves .lastBeatTakenUpstream { State.reset with upResp := .live 0 17 (some ⟨17, .okay, 5, true⟩) .okay true }
      (fun t => decide (t.upResp = .free)) = true := by decide +kernel

/-- 7.7, tick 1240: the arbiter that the last beat frees takes the owed entry 0 in the same happening (R120), and offers
status 4 (R176). -/
theorem test_last_beat_chooses :
    leaves .lastBeatTakenUpstream
      { withEntry 0 abandonedRead with upResp := .live 1 9 (some ⟨9, .okay, 5, true⟩) .okay true }
      (fun t => decide (t.upResp = .generated (.owedTimeout 0) 17 8) &&
        decide (upResponseOffer t = some ⟨17, 4, 0, false⟩)) = true := by decide +kernel

/-- R115: ABANDON of a FREE entry is refused with STATE, and object 40h with BAD-OBJECT. -/
theorem test_abandon_refused :
    answers (.abandon 0x3F 0 0) State.reset .stateRefused 0 = true ∧
      answers (.abandon 0x40 0 0) State.reset .badObject 0 = true := by decide +kernel

/-- The fault of the model: a first beat that names a STREAMING entry (notes/assumptions/17.md). -/
theorem test_streaming_first_beat :
    exec (.upstreamResponseChoice (some ⟨0, 0, 0, false⟩))
      (withEntry 0 { pendingRead with phase := .streaming }) = .fault .firstBeatNamesStreaming := by rfl

/-- R109: the first beat of a response that waits while the entry is abandoned is that of a late response. -/
theorem test_waiting_beat_is_late :
    leaves (.lateResponse ⟨63, 0, 0, true⟩)
      { withEntry 0 abandonedRead with
        standing := some ⟨0, 0, 1, true⟩, upResp := .generated (.owedTimeout 0) 17 8 }
      (fun t => t.standing.isNone && decide ((t.entry 0).map (·.lateConsumed) = some true)) = true := by
  decide +kernel

/-! ### Measurement, events, quiesce (the sequences of 8.6, 9.4 and 10.6) -/

/-- 8.6, step 1: hold 0, wait 30, stream 30 fall in bin 1. -/
theorem test_notice :
    let u := noticeStats defaultEdges
      { pendingRead with arrival := 100, forwardTime := 100, firstBeat := some 130 } .okay 160 clearStats
    u.waitMin = 30 ∧ u.waitMax = 30 ∧ u.waitSum = 30 ∧ u.streamMax = 30 ∧ u.holdMax = 0 ∧
      u.completions = 1 ∧ u.bins = #v[0, 1, 0, 0, 0, 0, 0, 0] := by decide +kernel

/-- 8.6, step 5: SNAPSHOT with clear answers OK with the timebase 900. -/
theorem test_snapshot :
    answers (.snapshot 0x04 0 1) { State.reset with timebase := 900 } .ok 900 = true := by decide +kernel

/-- 8.6, step 9: POP-CAPTURE of an empty log answers EMPTY. -/
theorem test_pop_empty :
    answers (.popCapture 0x35 0 0) State.reset .empty 0 = true := by decide +kernel

/-- 9.4, step 4: READ-EVENTS of class 4 answers TIMEOUT and CAPTURE, kind numbers 2 and 4. -/
theorem test_read_events :
    let s := withClass 4 { resetClass with flags := { noClassFlags with timeout := true, capture := true } }
    answers (.readEvents 0x04 0 0) s .ok 0x14 = true ∧
      leaves (.readEvents 0x04 0 0) s (fun t => decide ((t.cls 4).flags = noClassFlags)) = true := by
  decide +kernel

/-- 9.4, step 7: ALERT_N is released when the enable of the one set kind is turned off. -/
theorem test_alert_enable :
    let s := { State.reset with
      gflags := { noGlobalFlags with tableFull := true }, enables := State.reset.enables.set 8 true }
    alertN s = .low ∧ leaves (.alertEnableWrite 8 0) s (fun t => decide (alertN t = .high)) = true := by
  decide +kernel

/-- R155: QUIESCE of an empty device makes it QUIESCED at once and raises the flag. -/
theorem test_quiesce_empty :
    leaves (.quiesce 0 0 1) State.reset
      (fun t => decide (t.quiesce = .quiesced) && t.gflags.quiesced) = true := by decide +kernel

/-- 10.6, step 14: RESUME decides the presented request, which goes to the through slot while the channel is busy. -/
theorem test_resume :
    leaves (.resume 0 0 0) { State.reset with
        quiesce := .quiesced, up := .presented readReq none, down := some (forwarded [7] 0) }
      (fun t => decide (t.quiesce = .normal) && t.through.isSome) = true := by decide +kernel

/-- R157: the drain completes when nothing is inside. -/
theorem test_quiesced :
    leaves .quiesced { State.reset with quiesce := .quiescing }
      (fun t => decide (t.quiesce = .quiesced)) = true := by decide +kernel

/-- R172: RESET-REGULATOR stops every class and keeps the through slot. -/
theorem test_reset_regulator :
    leaves (.resetRegulator 0 0 0)
      { withClass 2 timed with through := some (accepted none readReq), timebase := 77 }
      (fun t => decide (t.cls 2 = resetClass) && t.through.isSome && decide (t.timebase = 77)) = true := by
  decide +kernel

/-- R92, R99: RESET-REGULATOR makes the head of an ARMED class ready while no entry is FREE, so of the global flags
TABLE-FULL alone is set after it; its response shows ALERT_N released (R172). -/
theorem test_reset_regulator_flags :
    leaves (.resetRegulator 0 0 0)
      { withClass 2 { runningIn .synced with
          state := .armed, remaining := 0, queue := [accepted (some 2) shortReq] } with
        entries := Vector.replicate 64 (some pendingRead)
        gflags := { noGlobalFlags with stray := true }
        enables := State.reset.enables.set 8 true }
      (fun t => headReady t 2 && decide (t.gflags = { noGlobalFlags with tableFull := true }) &&
        decide (t.port.held = ⟨.ok, 0x3F, 0, 0x00⟩) && decide (alertN t = .low)) = true := by decide +kernel

/-- R172: the response of RESET-REGULATOR shows ALERT_N released, also where its decision raises an enabled HOLD-FULL,
which pulls ALERT_N low after it (R86). -/
theorem test_reset_regulator_response :
    leaves (.resetRegulator 0 0 0)
      { withClass 3 { timed with queue := [accepted (some 3) shortReq] } with
        up := .presented readReq (some 3)
        down := some (forwarded [7] 0)
        enables := State.reset.enables.set 1 true }
      (fun t => decide (t.port.held = ⟨.ok, 0x3F, 0, 0x00⟩) && (t.cls 3).flags.holdFull &&
        decide (alertN t = .low)) = true := by decide +kernel

/-- R33, R182: PIN_RESET sets the timebase to 0 and makes every entry FREE; a release takes the first samples. -/
theorem test_pin_reset :
    leaves .pinReset { withEntry 9 pendingRead with timebase := 5 }
      (fun t => decide (t.timebase = 0) && (t.entry 9).isNone && decide (t.resetN = .low)) = true ∧
    leaves (.resetNRelease .high .low false) pinResetState
      (fun t => decide (t.frame.level = .high) && decide (t.gate.level = .low) &&
        decide (t.resetN = .high)) = true := by decide +kernel

/-- R162: an opened frame drives MDO with the held response. -/
theorem test_frame_open :
    leaves .frameOpen State.reset
      (fun t => decide (t.port.mdo = some ⟨.ok, 0, 0, 0⟩) && decide (t.port.phase = .openFrame)) = true := by
  decide +kernel

/-- The step takes the front command and leaves the rest. -/
theorem test_step :
    (match step { State.reset with pending := [.tick .low .low [], .frameOpen] } with
    | .next t => decide (t.pending = [.frameOpen]) && decide (t.timebase = 1)
    | _ => false) = true := by decide +kernel

/-! ### Witnesses: the hypotheses of the statements are met, each clause of them at a boundary where it has one -/

/-- A RUNNING COUNTED class, a TIMED one, a TIMED one at its last tick. -/
def tickState : State :=
  ((withClass 0 (runningIn .counted)).setCls 1 timed).setCls 2 { timed with elapsed := 49 }

theorem no_entries (s : State) (h : ∀ k, s.entry k = none) (Q : EntryIndex → Flight → Prop) :
    ∀ k f, s.entry k = some f → Q k f := by
  intro k f hf
  rw [h k] at hf
  cases hf

theorem witness_StepRunsFrontCommand :
    ({ State.reset with pending := [.frameOpen] } : State).pending = .frameOpen :: [] ∧
      State.reset.pending = [] ∧ ∃ t, exec .frameOpen State.reset = .next t := ⟨rfl, rfl, _, rfl⟩

theorem witness_ResetRelease : pinResetState.resetN = .low ∧ AllStopped pinResetState ∧
    pinResetState.frame.interval = .off ∧ pinResetState.gate.interval = .off ∧
    pinResetState.frame.run = 0 ∧ pinResetState.gate.run = 0 := by
  refine ⟨rfl, ?_, rfl, rfl, rfl, rfl⟩
  unfold AllStopped
  decide +kernel

theorem witness_NothingHappensInReset : pinResetState.resetN = .low ∧
    Instr.quiesced ≠ .pinReset ∧ ∀ f g m, Instr.quiesced ≠ .resetNRelease f g m := by
  refine ⟨rfl, by decide, ?_⟩
  intro f g m h
  cases h

theorem witness_TickCounts : tickState.resetN = .high ∧ TickTaken tickState ∧
    (tickState.cls 0).active.mode = .counted ∧
    ((tickState.cls 1).active.mode ≠ .counted ∧ (1 : ClassId) ∈ [(1 : ClassId)]) ∧
    ((3 : ClassId) ∉ [(1 : ClassId)] ∧ (tickState.cls 3).state ≠ .running) ∧
    ((tickState.cls 1).state = .running ∧
      (tickState.cls 1).elapsed + 1 ≠ (tickState.cls 1).active.length) ∧
    ((tickState.cls 2).state = .running ∧
      (tickState.cls 2).elapsed + 1 = (tickState.cls 2).active.length) := by
  refine ⟨rfl, ⟨by decide +kernel, by decide +kernel, rfl, rfl, no_entries _ (by decide +kernel) _⟩, ?_⟩
  decide +kernel

/-- The state that the command leaves. -/
def after (c : Instr) (s : State) : State :=
  match exec c s with
  | .next t => t
  | _ => s

theorem after_eq {c : Instr} {s t : State} (h : exec c s = .next t) : after c s = t := by simp [after, h]

theorem runs_after (l : List Instr) (h : ∀ c ∈ l, ∀ s, ∃ t, exec c s = .next t) :
    ∀ s, Runs l s (l.foldl (fun t c => after c t) s) := by
  induction l with
  | nil => exact fun _ => rfl
  | cons c l ih =>
    intro s
    obtain ⟨t, ht⟩ := h c (.head _) s
    exact ⟨t, ht, after_eq ht ▸ ih (fun d hd => h d (.tail _ hd)) _⟩

/-- A happening that no operand stops has a next state. -/
theorem happening_next (s : State) (f : State → State) : ∃ t, happening s f = .next t := by
  unfold happening
  split <;> exact ⟨_, rfl⟩

/-- Classes that owe a tick, classes that owe the copy of an edge, the GATE filter and an entry that still owe what a tick
has brought them. -/
def owing : State :=
  { ((((withClass 2 (atEnd timed)).setCls 15 (atEnd (runningIn .gated))).setCls 7 { armed with frameOwed := true }).setCls
      8 { runningIn .gated with gateOwed := true, state := .suspended }).setEntry 63 (some pendingRead) with
    timebase := 200
    frame := { resetFilter with level := .high, raw := .high }
    gate := ⟨.i4, 3, .high, 2, 3, .low, true⟩ }

/-- The state after each class has taken its copies. -/
def owing0 : State :=
  [Instr.filterEdge .frame ⟨none, List.finRange 16⟩, .filterEdge .gate ⟨none, List.finRange 16⟩].foldl
    (fun t c => after c t) owing

/-- The state after each class has taken its tick, too. -/
def owing1 : State := ((List.finRange 16).map Instr.periodBoundary).foldl (fun t c => after c t) owing0

/-- The state after the GATE filter has taken its sample, too. -/
def owing2 : State := after (.filterEdge .gate ⟨some (owing1.filter .gate).raw, List.finRange 16⟩) owing1

/-- The state after each entry has taken its deadline, too. -/
def owing3 : State := ((List.finRange 64).map Instr.deadline).foldl (fun t c => after c t) owing2

/-- FILTER_EDGE has a next state. -/
theorem filterEdge_next (line : Line) (taking : EdgeTaking) (s : State) : ∃ t, exec (.filterEdge line taking) s = .next t := by
  dsimp only [exec, execFilterEdge]
  split <;> exact ⟨_, rfl⟩

theorem runs_owing :
    Runs [.filterEdge .frame ⟨none, List.finRange 16⟩, .filterEdge .gate ⟨none, List.finRange 16⟩] owing owing0 ∧
    Runs ((List.finRange 16).map Instr.periodBoundary) owing0 owing1 ∧
    Runs ((List.finRange 64).map Instr.deadline) owing2 owing3 := by
  refine ⟨runs_after _ (by simp [filterEdge_next]) owing, runs_after _ ?_ owing0, runs_after _ ?_ owing2⟩ <;>
    · intro c hc s
      obtain ⟨n, -, rfl⟩ := List.mem_map.1 hc
      exact happening_next ..

theorem owing_sampled : OwedSampleTaken .frame owing1 owing1 ∧ OwedSampleTaken .gate owing1 owing2 := by
  have hf : (owing1.filter .frame).owed = false := by decide +kernel
  have hg : (owing1.filter .gate).owed = true := by decide +kernel
  refine ⟨⟨fun h => absurd (hf.symm.trans h) (by decide), fun _ => rfl⟩, ⟨fun _ => ?_, fun h => ?_⟩⟩
  · obtain ⟨t, e⟩ := filterEdge_next .gate ⟨some (owing1.filter .gate).raw, List.finRange 16⟩ owing1
    rw [owing2, after_eq e]
    exact e
  · exact absurd (hg.symm.trans h) (by decide)

theorem witness_NextTickTakesOwedBoundary : owing.resetN = .high ∧ TickTaken owing3 ∧
    (owing3.cls 2).remaining = 9 ∧ (owing3.cls 7).state = .running ∧ (owing0.cls 8).state = .running ∧
    (owing3.cls 8).state = .suspended ∧ (owing3.cls 15).state = .suspended ∧
    owing3.entry 63 = some abandonedRead := by
  have he : ∀ k, ((owing3.entry k).all fun f => !decide (f.phase = .pending)) = true := by decide +kernel
  refine ⟨rfl, ⟨by decide +kernel, by decide +kernel, by decide +kernel, by decide +kernel, fun k f hk hp => ?_⟩,
    by decide +kernel⟩
  have := he k
  rw [hk] at this
  simp [hp.1] at this

theorem witness_PeriodBoundary : (atEnd timed).tickOwed = true ∧ (atEnd timed).state = .running ∧
    (atEnd timed).active.mode ≠ .counted ∧ (atEnd timed).elapsed + 1 = (atEnd timed).active.length ∧
    ({ atEnd timed with elapsed := 48 } : ClassRec).elapsed + 1 ≠ (atEnd timed).active.length ∧
    timed.tickOwed = false ∧
    ({ resetClass with tickOwed := true } : ClassRec).state ≠ .running ∧
    ({ runningIn .counted with tickOwed := true } : ClassRec).active.mode = .counted := by decide +kernel

/-- A TIMED class whose pending copy is GATED on a high level. -/
def towardsGated : ClassRec :=
  { timed with waiting := some { defaultContract with mode := .gated, polarity := .risingHigh } }

/-- Each row of the boundary's table is met by a class. -/
theorem witness_BoundaryLeaves :
    ({ timed with oneShot := true } : ClassRec).oneShot = true ∧
    (timed.oneShot = false ∧ (nextContract timed).mode = .timed) ∧
    ((nextContract (runningIn .gated)).mode = .gated ∧ (runningIn .gated).active.mode = .gated ∧
      (runningIn .gated).active.polarity = (nextContract (runningIn .gated)).polarity) ∧
    ((nextContract towardsGated).mode = .gated ∧ towardsGated.active.mode ≠ .gated) ∧
    ((nextContract (runningIn .synced)).mode = .synced ∧
      (runningIn .synced).active.polarity = (nextContract (runningIn .synced)).polarity) := by
  decide +kernel

theorem witness_Matches : Matches .high (nextContract towardsGated).polarity ∧
    ¬ Matches .low (nextContract towardsGated).polarity ∧ Matches .low .fallingLow := by
  unfold Matches
  decide +kernel

/-- A filter of interval 4 at the tick that completes it. -/
def lastTick : Filter := ⟨.i4, 2, .low, 0, 3, .low, false⟩

theorem witness_SampleWithoutEdge :
    resetFilter.interval = .off ∧ lastTick.interval ≠ .off ∧
    ({ lastTick with count := 2 } : Filter).count + 1 ≠ intervalTicks .i4 ∧
    lastTick.count + 1 = intervalTicks lastTick.interval ∧ lastTick.level = .low ∧
    lastTick.run + 1 ≠ lastTick.agreement ∧
    ({ lastTick with run := 1 } : Filter).run + 1 = lastTick.agreement ∧
    (({ State.reset with gate := { lastTick with owed := true } } : State).filter .gate).owed = true ∧
    ({ lastTick with owed := true, count := 0 } : Filter).count + 1 ≠ intervalTicks lastTick.interval ∧
    lastTick.owed = false := by
  decide +kernel

theorem witness_EdgeDue : EdgeDue .high State.reset.frame ∧
    EdgeDue .high { lastTick with run := 1, owed := true } := by
  unfold EdgeDue
  decide +kernel

theorem witness_FrameEdge : EdgeDue .high State.reset.frame ∧
    (timed.active.mode ≠ .synced) ∧ (armed.active.mode = .synced ∧ armed.state = .armed) ∧
    Matches .high armed.active.polarity ∧ ¬ Matches .low armed.active.polarity ∧
    ((runningIn .synced).state = .running ∧ (runningIn .synced).active.syncEnd = .length) ∧
    ({ (runningIn .synced).active with syncEnd := .edgeOrLength } : Contract).syncEnd = .edgeOrLength ∧
    ReceivesFrame armed ∧ ¬ ReceivesFrame timed ∧ FrameEdgeNotice .high armed ∧ ¬ FrameEdgeNotice .low armed ∧
    (owing.cls 7).frameOwed = true ∧ (owing.cls 8).frameOwed = false := by
  unfold EdgeDue ReceivesFrame FrameEdgeNotice Matches
  decide +kernel

theorem witness_GateEdge : EdgeDue .high State.reset.gate ∧ Suspends .low (runningIn .gated) ∧
    Resumes .high { runningIn .gated with state := .suspended } ∧ ¬ Suspends .low timed ∧
    ¬ Resumes .low timed ∧ ReceivesGate (runningIn .gated) ∧ ¬ ReceivesGate timed ∧
    (owing.cls 8).gateOwed = true ∧ (owing.cls 7).gateOwed = false := by
  unfold EdgeDue Suspends Resumes ReceivesGate Matches
  decide +kernel

/-! Admission. -/

theorem witness_UnchargedRequestPasses :
    (Presents { State.reset with up := .presented readReq none } none readReq ∧ Accepting State.reset ∧
      classify State.reset readReq = .bypass) ∧
    ({ resetClass with outstanding := 63 } : ClassRec).queue = [] ∧
    Unregulated { resetClass with outstanding := 63 } ∧
    ({ resetClass with outstanding := 63 } : ClassRec).outstanding < 64 := by
  unfold Unregulated
  exact ⟨⟨.inr rfl, ⟨rfl, rfl, rfl⟩, rfl⟩, by decide +kernel⟩

/-- A class with the given remaining budget and one place left under its outstanding limit. -/
def withBudget (n : Nat) (action : OverBudget) : ClassRec :=
  { timed with remaining := n, outstanding := 63, active := { timed.active with overBudget := action } }

/-- What every decision of a request offered to class 3 asks for. -/
theorem offered_to_class3 (k : ClassRec) : (withClass 3 k).resetN = .high ∧
    Presents (withClass 3 k) (some readReq) readReq ∧ Accepting (withClass 3 k) ∧
    classify (withClass 3 k) readReq = .cls 3 ∧ (withClass 3 k).cls 3 = k :=
  ⟨rfl, .inl ⟨rfl, rfl⟩, ⟨rfl, rfl, rfl⟩, rfl, rfl⟩

theorem witness_FittingRequestCharged : ReachesBudget (withBudget 2 .hold) ∧
    chargeOf readReq ≤ (withBudget 2 .hold).remaining ∧
    ([3, 4, 7, 8, 11, 12, 15] : List (BitVec 4)).map (fun l => chargeOf { readReq with len := l }) =
      [1, 2, 2, 3, 3, 4, 4] := by
  unfold ReachesBudget
  decide +kernel

theorem witness_OverBudgetMarkedOrRejected :
    ReachesBudget (withBudget 1 .mark) ∧ (withBudget 1 .mark).remaining < chargeOf readReq ∧
    (withBudget 1 .mark).active.overBudget = .mark ∧
    ReachesBudget (withBudget 1 .reject) ∧ (withBudget 1 .reject).remaining < chargeOf readReq ∧
    (withBudget 1 .reject).active.overBudget = .reject := by
  unfold ReachesBudget
  decide +kernel

theorem witness_OverrunSet : OverrunSet { timed with overrun := true } { timed with overrun := true } ∧
    timed.overrun = false := by
  refine ⟨⟨fun _ => rfl, fun h => ?_⟩, rfl⟩
  cases h

/-- A class with one held request and the given hold limit. -/
def holding1 (limit : Nat) (action : Overflow) : ClassRec :=
  { timed with
    queue := [accepted (some 3) shortReq]
    active := { timed.active with holdLimit := limit, overflow := action } }

theorem witness_JoinOrOverflow :
    SentToQueue (holding1 2 .stall) ∧ heldTotal (withClass 3 (holding1 2 .stall)) < 48 ∧
    (holding1 2 .stall).queue.length < (holding1 2 .stall).active.holdLimit ∧
    SentToQueue (holding1 1 .stall) ∧
    ¬ (holding1 1 .stall).queue.length < (holding1 1 .stall).active.holdLimit ∧
    (holding1 1 .stall).active.overflow = .stall ∧ (holding1 1 .refuse).active.overflow = .refuse ∧
    SentToQueue { resetClass with outstanding := 64 } ∧ SentToQueue { timed with outstanding := 64 } ∧
    (ReachesBudget (withBudget 1 .hold) ∧ (withBudget 1 .hold).remaining < chargeOf readReq ∧
      (withBudget 1 .hold).active.overBudget = .hold) := by
  unfold SentToQueue Unregulated ReachesBudget
  decide +kernel

theorem witness_UndecidedRequestWaits :
    let s : State := { State.reset with quiesce := .quiesced }
    s.resetN = .high ∧ Presents s (some readReq) readReq ∧ ¬ Accepting s ∧ s.up = .free := by
  refine ⟨rfl, .inl ⟨rfl, rfl⟩, ?_, rfl⟩
  rintro ⟨-, -, h⟩
  cases h

theorem witness_StalledRequestDecidedAfresh :
    let s : State := { withClass 3 armed with up := .presented readReq (some 3) }
    s.resetN = .high ∧ s.up = .presented readReq (some 3) ∧ Accepting s ∧
      ∃ t, exec (.admissionDecision none) { s with up := .presented readReq none } = .next t :=
  ⟨rfl, rfl, ⟨rfl, rfl, rfl⟩, _, rfl⟩

theorem witness_WriteDataBeatStored :
    ({ State.reset with up := .taking .refusedSlot 1 } : State).up = .taking .refusedSlot 1 ∧
    (let s : State := { State.reset with up := .taking .through 2, through := some (accepted none writeReq) };
      s.up = .taking .through 2 ∧ s.through = some (accepted none writeReq)) ∧
    (let s : State := { State.reset with up := .taking .forwarded 1, down := some (forwarded [7] 0) };
      s.up = .taking .forwarded 1 ∧ s.down = some (forwarded [7] 0)) ∧
    (let k : ClassRec := { timed with queue := [accepted (some 3) shortReq, accepted (some 3) writeReq] };
      let s : State := { withClass 3 k with up := .taking (.held 3) 2 };
      s.up = .taking (.held 3) 2 ∧
        (s.cls 3).queue = [accepted (some 3) shortReq] ++ [accepted (some 3) writeReq]) ∧
    readReq.kind = .read ∧ writeReq.kind = .write := by
  decide +kernel

/-! The arbiters. -/

/-- All entries but the last in use. -/
def nearlyFull : State :=
  { State.reset with entries := (Vector.replicate 64 (some pendingRead)).set 63 none }

theorem witness_LowestFree : LowestFree State.reset 0 ∧ LowestFree nearlyFull 63 := by
  unfold LowestFree
  decide +kernel

theorem witness_ThroughSlotForwarded :
    let s : State := { nearlyFull with through := some (accepted none readReq) }
    s.resetN = .high ∧ StallLeavesSlotsEmpty s ∧ s.through = some (accepted none readReq) ∧
      s.down = none ∧ s.altMark = .throughSlot ∧ ∀ c, eligible s c = false := by
  refine ⟨rfl, ?_, rfl, rfl, rfl, by decide +kernel⟩
  intro h
  exact absurd rfl h

/-- A head of class 5 waits, with the class so. -/
def headWaits (k : ClassRec) : State := withClass 5 { k with queue := [accepted (some 5) shortReq] }

theorem witness_HeadForwarded :
    nextHead (headWaits timed) = some 5 ∧
    ((headWaits timed).cls 5).queue = accepted (some 5) shortReq :: [] ∧
    (headWaits timed).down = none ∧ (headWaits timed).through = none ∧
    LowestFree (headWaits timed) 0 ∧ ((headWaits timed).cls 5).state = .running ∧
    nextHead (headWaits resetClass) = some 5 ∧ Unregulated ((headWaits resetClass).cls 5) ∧
    nextHead { headWaits armed with quiesce := .quiescing, flush := true } = some 5 ∧
    armed.state = .armed := by
  unfold LowestFree Unregulated
  decide +kernel

/-- A closed choice, and the two kinds of open one: of the through slot, and of a head. -/
theorem witness_ChoiceTaken :
    ¬ ChoiceOpen (withClass 5 resetClass) ∧ ChoiceOpen (headWaits resetClass) ∧
    (headWaits resetClass).through = none ∧ eligible (headWaits resetClass) 5 = true ∧
    (let v : State := { nearlyFull with through := some (accepted none readReq) };
      ChoiceOpen v ∧ v.through ≠ none ∧ v.altMark = .throughSlot) := by
  unfold ChoiceOpen
  decide +kernel

theorem witness_AlternationAndRoundRobin :
    let s : State := { headWaits resetClass with through := some (accepted none readReq) }
    s.down = none ∧ s.entry 0 = none ∧ s.through ≠ none ∧ eligible s 5 = true ∧
      s.altMark = .throughSlot ∧ ({ s with altMark := .holdQueues } : State).altMark = .holdQueues ∧
      nextHead s = some 5 ∧ State.reset.through = none ∧ ∀ c, eligible State.reset c = false := by
  decide +kernel

theorem witness_TableFullRaised :
    (let s : State := { nearlyFull.setCls 5 { resetClass with queue := [accepted (some 5) shortReq] } with
      through := some (accepted none readReq) };
    leaves .grantThroughSlot s (fun t => decide (lowestFree t = none) && grantWaits t) = true ∧
      lowestFree s ≠ none) ∧
    (let s : State := { State.reset with
      entries := Vector.replicate 64 (some pendingRead), quiesce := .quiesced, up := .presented readReq none };
    leaves (.resetRegulator 0 0 0) s (fun t =>
        decide (lowestFree t = none) && grantWaits t && t.through.isSome) = true ∧ s.through = none) ∧
    (let s : State := { withClass 2 { runningIn .synced with
        state := .armed, remaining := 0, queue := [accepted (some 2) shortReq] } with
      entries := Vector.replicate 64 (some pendingRead) };
    leaves (.resetRegulator 0 0 0) s (fun t =>
        decide (lowestFree t = none) && grantWaits t && headReady t 2 && t.gflags.tableFull) = true ∧
      headReady s 2 = false ∧ s.gflags.tableFull = false) ∧
    (let s : State := { nearlyFull.setCls 5 { resetClass with queue := [accepted (some 5) shortReq] } with
      entries := nearlyFull.entries.set 63 (some { abandonedRead with owed := false })
      through := some (accepted none readReq) };
    leaves (.lateResponse ⟨63, 0, 0, true⟩) s (fun t =>
        decide (lowestFree t = none) && grantWaits t && t.down.isSome) = true ∧ s.down = none) := by
  decide +kernel

theorem witness_ChannelsFreed :
    ({ State.reset with down := some (forwarded [7, 8] 0) } : State).down =
      some ⟨(forwarded [] 0).header, [7, 8], 0⟩ ∧ (forwarded [] 0).header.kind = .write ∧
    forwarded [7, 8] 1 = ⟨(forwarded [] 0).header, [] ++ 7 :: [8], ([] : List Data).length + 1⟩ ∧
    ([] : List Data).length < (forwarded [] 0).header.len.toNat ∧
    forwarded [7, 8] 2 = ⟨(forwarded [] 0).header, [7] ++ 8 :: [], [(7 : Data)].length + 1⟩ ∧
    [(7 : Data)].length = (forwarded [] 0).header.len.toNat ∧
    (forwarded [7] 2 = ⟨(forwarded [] 0).header, [7], 1 + 1⟩ ∧ [(7 : Data)].length ≤ 1) ∧
    State.reset.down = none ∧
    ({ State.reset with upResp := .live 0 17 (some ⟨17, .okay, 5, true⟩) .okay true } : State).upResp =
      .live 0 17 (some ⟨17, .okay, 5, true⟩) .okay true ∧
    ({ State.reset with upResp := .live 0 17 (some ⟨17, .okay, 5, false⟩) .okay false } : State).upResp =
      .live 0 17 (some ⟨17, .okay, 5, false⟩) .okay false ∧
    (∀ k tag b st e, State.reset.upResp ≠ .live k tag (some b) st e) := by
  refine ⟨rfl, rfl, rfl, by decide, rfl, by decide, ⟨rfl, by decide⟩, rfl, rfl, rfl, ?_⟩
  intro k tag b st e h
  cases h

/-! Responses. -/

/-- Two owed TIMEOUT responses. -/
def twoOwed : State := (withEntry 0 abandonedRead).setEntry 63 (some abandonedRead)

/-- The state after reset with only entry `k` in use, and that PENDING, owes nothing. -/
theorem nothingOwed_pending (k : EntryIndex) : NothingOwed (withEntry k pendingRead) := by
  intro j f h
  have hr : ∀ i, State.reset.entry i = none := by decide +kernel
  simp only [withEntry, State.entry, State.setEntry, Fin.getElem_fin, Vector.getElem_set] at h
  simp only [State.entry, Fin.getElem_fin] at hr
  rw [hr] at h
  split at h
  · cases h
    rfl
  · cases h

/-- What the refused slot keeps of a READ rejected by class 3. -/
def refusedRead : Refused := ⟨.read, 0, 5, 17, 1, 0, false, 2⟩

theorem witness_GeneratedResponseChosen :
    State.reset.resetN = .high ∧ State.reset.upResp = .free ∧
    ({ State.reset with refused := some refusedRead } : State).refused = some refusedRead ∧
    twoOwed.refused = none ∧ twoOwed.entry 0 = some abandonedRead ∧ abandonedRead.owed = true ∧
    (∀ j g, j < (0 : EntryIndex) → twoOwed.entry j = some g → g.owed = false) ∧
    NothingOwed State.reset ∧ ¬ LiveWaits { State.reset with standing := none } ∧
    (∀ b f, some (⟨63, 0, 0, true⟩ : DownBeat) = some b → (withEntry 63 pendingRead).entry b.tag = some f →
      f.phase ≠ .streaming) ∧
    ({ State.reset with upResp := .generated .refusedSlot 17 1 } : State).upResp ≠ .free := by
  refine ⟨rfl, rfl, rfl, rfl, by decide +kernel, rfl, fun j g h => absurd h (by simp),
    no_entries _ (by decide +kernel) _, ?_, ?_, by simp⟩
  · rintro ⟨b, f, h, -⟩
    cases h
  · intro b f hb hf
    cases hb
    have h : (withEntry 63 pendingRead).entry 63 = some pendingRead := by decide +kernel
    rw [show (withEntry 63 pendingRead).entry 63 = some f from hf] at h
    cases h
    decide

theorem witness_BeatStands : DownstreamOpen (withEntry 63 pendingRead) ∧
    (withEntry 63 pendingRead).entry (⟨63, 0, 0, true⟩ : DownBeat).tag = some pendingRead ∧
    ¬ DownstreamOpen { withEntry 63 pendingRead with discard := some .stray } := by
  refine ⟨⟨rfl, rfl, rfl⟩, by decide +kernel, ?_⟩
  rintro ⟨-, h, -⟩
  cases h

theorem witness_LiveResponseBegins :
    (withEntry 63 pendingRead).upResp = .free ∧ (withEntry 63 pendingRead).refused = none ∧
    NothingOwed (withEntry 63 pendingRead) ∧
    ((withEntry 63 pendingRead).standing = none ∧ (withEntry 63 pendingRead).discard = none) ∧
    ({ withEntry 63 pendingRead with standing := some ⟨63, 0, 0, true⟩ } : State).standing =
      some ⟨63, 0, 0, true⟩ ∧
    (withEntry 63 pendingRead).entry 63 = some pendingRead ∧ pendingRead.phase = .pending ∧
    pendingRead.kind = .read ∧ ({ pendingRead with kind := .write } : Flight).kind = .write :=
  ⟨rfl, rfl, nothingOwed_pending 63, ⟨rfl, rfl⟩, rfl, by decide +kernel, rfl, rfl, rfl⟩

/-- A response of entry 0 in progress, with its first beat held. -/
def streaming : State :=
  { withEntry 0 { pendingRead with phase := .streaming, firstBeat := some 0 } with
    upResp := .live 0 17 (some ⟨17, .okay, 5, false⟩) .okay false }

theorem witness_LiveResponseContinues :
    streaming.upResp = .live 0 17 (some ⟨17, .okay, 5, false⟩) .okay false ∧
    streaming.entry 0 = some { pendingRead with phase := .streaming, firstBeat := some 0 } := by
  decide +kernel

theorem witness_GeneratedBeatTaken :
    let s : State := { withEntry 0 abandonedRead with upResp := .generated (.owedTimeout 0) 17 1 }
    s.upResp = .generated (.owedTimeout 0) 17 1 ∧ s.entry 0 = some abandonedRead ∧
      abandonedRead.phase = .abandoned ∧ abandonedRead.lateConsumed = false ∧
      ({ abandonedRead with lateConsumed := true } : Flight).lateConsumed = true := by decide +kernel

theorem witness_DeadlineAbandons :
    ({ withEntry 0 pendingRead with timebase := 200 } : State).entry 0 = some pendingRead ∧
    pendingRead.phase = .pending ∧ pendingRead.deadline = some 200 ∧
    pendingRead.deadline ≠ some (withEntry 0 pendingRead).timebase := by decide +kernel

theorem witness_AbandonCommand : Listening (withEntry 63 pendingRead) ∧
    (0x3F : Byte).toNat = (63 : EntryIndex).val ∧
    (withEntry 63 pendingRead).entry 63 = some pendingRead ∧
    (withEntry 63 pendingRead).entry 0 = none ∧ 64 ≤ (0x40 : Byte).toNat := by
  unfold Listening
  decide +kernel

theorem witness_LateResponseDiscarded :
    (withEntry 0 abandonedRead).discard = none ∧ livePassing (withEntry 0 abandonedRead) = false ∧
    FirstBeatIs (withEntry 0 abandonedRead) ⟨0, 0, 0, true⟩ ⟨0, 0, 0, true⟩ ∧
    FirstBeatIs { withEntry 0 abandonedRead with standing := some ⟨0, 0, 0, true⟩ } ⟨63, 0, 0, true⟩
      ⟨0, 0, 0, true⟩ ∧
    (withEntry 0 abandonedRead).entry 0 = some abandonedRead ∧ abandonedRead.phase = .abandoned ∧
    abandonedRead.lateConsumed = false ∧ abandonedRead.owed = true ∧
    ({ abandonedRead with owed := false } : Flight).owed = false ∧ abandonedRead.kind = .read ∧
    ({ withEntry 0 abandonedRead with discard := some (.late 0) } : State).discard = some (.late 0) := by
  unfold FirstBeatIs
  decide +kernel

theorem witness_StrayResponseDiscarded :
    FirstBeatIs State.reset ⟨63, 0, 0, true⟩ ⟨63, 0, 0, true⟩ ∧
    State.reset.discard = none ∧ livePassing State.reset = false ∧ State.reset.entry 63 = none ∧
    (withEntry 0 { abandonedRead with lateConsumed := true }).entry 0 =
      some { abandonedRead with lateConsumed := true } ∧
    ({ State.reset with discard := some .stray } : State).discard = some .stray := by
  unfold FirstBeatIs
  decide +kernel

/-! Measurement, events, quiesce. -/

/-- A notice of an answered READ, and one of a TIMEOUT, which has no first beat; the second shows what the first leaves
out. -/
theorem witness_NoticeUpdatesRecord :
    ({ pendingRead with firstBeat := some 30 } : Flight).firstBeat = some 30 ∧
    RespStatus.okay ≠ .refused ∧ RespStatus.okay ≠ .timeout ∧
    RespStatus.timeout ≠ .refused ∧ pendingRead.firstBeat = none ∧
    (let u := noticeStats defaultEdges { pendingRead with forwardTime := 9 } .timeout 200 clearStats;
      u.timeouts = 1 ∧ u.holdMax = 9 ∧ u.waitMax = clearStats.waitMax ∧ u.streamMax = 0) ∧
    EdgesLegal { State.reset with edges := #v[1, 2, 3, 4, 5, 6, 16777215] } := by
  unfold EdgesLegal
  decide +kernel

theorem witness_CaptureLogged :
    ({ timed.active with captureThreshold := 150 } : Contract).captureThreshold ≠ 0 ∧
    timed.active.captureThreshold = 0 ∧
    waitTicks { pendingRead with firstBeat := some 150 } .okay 160 = 150 ∧
    waitTicks { pendingRead with firstBeat := some 149 } .okay 160 < 150 ∧
    span 4294967295 16777213 = 16777214 ∧ span 0 4294967295 = 16777215 ∧
    ({ pendingRead with firstBeat := some 150, kind := .write } : Flight).kind = .write ∧
    State.reset.log.length < 32 := by decide +kernel

theorem witness_Listening : Listening State.reset ∧ (0x0F : Byte).toNat = (15 : ClassId).val ∧
    16 ≤ (0x10 : Byte).toNat ∧ (0x10 : Byte) ≠ 0x36 := by
  unfold Listening
  decide +kernel

theorem witness_QuiesceAndDrain : State.reset.quiesce = .normal ∧ drained State.reset = true ∧
    drained (withEntry 0 pendingRead) = false ∧
    ({ State.reset with quiesce := .quiescing } : State).quiesce = .quiescing ∧
    drained (withEntry 0 { abandonedRead with owed := false }) = true := by decide +kernel

theorem witness_ResumeDecides :
    let s : State := { State.reset with quiesce := .quiesced, up := .presented readReq none }
    Listening s ∧ s.quiesce ≠ .normal ∧ s.up = .presented readReq none := by
  unfold Listening
  decide +kernel

/-! The port and its commands. -/

theorem witness_FramesOpenAndFail : State.reset.port.phase = .idle ∧ [true, false].length ≠ 64 ∧
    [true, false].length < 8 ∧ 8 ≤ (List.replicate 65 false).length ∧
    (∀ i : Fin 8, (List.replicate 65 false)[i.val]? = some ((0 : Byte).getMsbD i.val)) ∧
    (0x01 : Byte) ≠ checkByte (([0, 0, 0, 0, 0, 0, 0] : List Byte).flatMap byteBits) ∧
    ({ State.reset with port := { resetPort with phase := .ignoring } } : State).port.phase = .ignoring ∧
    ({ State.reset with port := { resetPort with mdo := some resetPort.held } } : State).port.mdo =
      some resetPort.held := by
  decide +kernel

theorem witness_FrameCloseRunsItsCommand :
    (0x03 : Byte) ∉ ([0x00, 0x01, 0x02, 0x10, 0x11, 0x12, 0x13, 0x14, 0x20, 0x21, 0x22, 0x30, 0x31,
      0x32, 0x3F] : List Byte) := by decide +kernel

/-- The first and the last object and field of the catalogue, and one outside at each end. -/
theorem witness_ReadFieldCatalogue :
    catalogue State.reset 0x10 = none ∧ catalogue State.reset 0x40 = none ∧
    (catalogue State.reset 0x0F).map (fun runs => runs.map fun r => (r.1, r.2.length)) =
      some [(0, 14), (16, 14), (32, 14), (48, 8)] ∧
    (catalogue State.reset 0x3F) = some [(0, [some 0x416, some 1])] ∧
    (catalogue State.reset 0x34).map (fun runs => runs.map fun r => r.2[26]?) = some [some none] := by
  decide +kernel

theorem witness_StagingWrite : (fieldRange 4).1 ≤ (1 : Word32).toNat ∧ (1 : Word32).toNat ≤ (fieldRange 4).2 ∧
    ¬ ((fieldRange 4).1 ≤ (0 : Word32).toNat) ∧ ¬ ((65 : Word32).toNat ≤ (fieldRange 4).2) := by
  decide +kernel

theorem witness_Commit :
    let own : Contract := { defaultContract with mode := .counted, reference := 15 }
    ((withClass 15 { timed with staging := own }).cls 15).staging.reference = 15 ∧
    (resetClass.staging.mode ≠ .counted ∧ resetClass.state = .stopped) ∧
    (timed.staging.mode ≠ .counted ∧ timed.state = .running ∧ timed.waiting = none) ∧
    ({ timed with waiting := some defaultContract } : ClassRec).waiting ≠ none := by decide +kernel

theorem witness_StartAndStop : resetClass.state = .stopped ∧ timed.state ≠ .stopped ∧
    (runningIn .counted).active.mode = .counted ∧ (runningIn .synced).active.mode = .synced ∧
    (runningIn .gated).active.mode = .gated := by decide +kernel

theorem witness_ClassMapWrite :
    (0x3F : Byte).toNat = (63 : Initiator).val ∧
    (0x00000F80 : Word32).extractLsb' 0 8 = mapByte .bypass ∧
    (0x00000F80 : Word32).extractLsb' 8 8 = mapByte (.cls 15) ∧
    (∀ n, (0x10 : Byte) ≠ mapByte (.cls n)) ∧ (0x10 : Byte) ≠ mapByte .bypass ∧
    64 ≤ (0x40 : Byte).toNat := by decide +kernel

theorem witness_TickDivWrite : (256 : Word32).toNat = tickClocks .d256 ∧ AllStopped State.reset ∧
    ¬ AllStopped (withClass 2 timed) ∧ State.reset.quiesce ≠ .quiesced ∧
    (0 : Word32).toNat ∉ [1, 4, 16, 64, 256] := by
  unfold AllStopped
  decide +kernel

theorem witness_FilterAndEdgeWrites :
    (16 : Word32).toNat = intervalTicks .i16 ∧ (0 : Word32).toNat = intervalTicks .off ∧
    (∀ n, (State.reset.cls n).active.mode = lineMode .gate → (State.reset.cls n).state = .stopped) ∧
    (((withClass 2 (runningIn .gated)).cls 2).active.mode = lineMode .gate ∧
      ((withClass 2 (runningIn .gated)).cls 2).state ≠ .stopped) ∧
    (2 : Word32).toNat ∉ [0, 1, 4, 16] ∧ ¬ (2 ≤ (1 : Word32).toNat) ∧ 7 ≤ (0x07 : Byte).toNat ∧
    ((0x06 : Byte).toNat = (6 : Fin 7).val ∧ (16777215 : Word32).toNat ≤ 16777215 ∧
      State.reset.edges[5] < (16777215 : Word32).toNat) := by decide +kernel

theorem witness_SnapshotAndPop :
    let r : Capture := ⟨4, 5, 17, .read, 0, 7, 10, 170, some 30, .dataError, false, 500⟩
    ({ State.reset with log := [r] } : State).log = r :: [] ∧ State.reset.log = [] := by decide +kernel

/-! The invariants, on a state with a RUNNING class, a held request and one in flight. -/

theorem classLegal_timed (n : ClassId) : ClassLegal n timed := by
  refine ⟨?_, ?_, ?_, ?_, ?_, ?_, ?_, ?_, ?_, ?_, ?_, ?_, ?_, ?_, ?_, ?_, ?_⟩ <;>
    (try unfold ContractLegal) <;> (try unfold ReceivesFrame) <;> (try unfold ReceivesGate) <;> first
      | decide +kernel
      | (revert n; decide +kernel)

theorem classLegal_reset (n : ClassId) : ClassLegal n resetClass := by
  refine ⟨?_, ?_, ?_, ?_, ?_, ?_, ?_, ?_, ?_, ?_, ?_, ?_, ?_, ?_, ?_, ?_, ?_⟩ <;>
    (try unfold ContractLegal) <;> (try unfold ReceivesFrame) <;> (try unfold ReceivesGate) <;> first
      | decide +kernel
      | (revert n; decide +kernel)

theorem witness_PeriodsLegalKept : PeriodsLegal (withClass 2 timed) ∧
    step (withClass 2 timed) = .next (withClass 2 timed) := by
  refine ⟨fun n => ?_, rfl⟩
  by_cases h : n = 2
  · subst h
    exact classLegal_timed 2
  · have : ∀ n, n ≠ 2 → (withClass 2 timed).cls n = resetClass := by decide +kernel
    rw [this n h]
    exact classLegal_reset n

/-- One class 5 request held and one class 4 request PENDING. -/
def busy : State := (headWaits timed).setEntry 0 (some pendingRead)

/-- The same, with the PENDING request counted. -/
def counted : State := busy.setCls 4 { resetClass with outstanding := 1 }

theorem busy_entries : ∀ k, busy.entry k = if k = 0 then some pendingRead else none := by decide +kernel

theorem witness_SizesKept : HoldStoreFits busy ∧ LogFits busy ∧ FiltersLegal busy := by
  refine ⟨?_, ?_, ⟨?_, ?_, ?_, ?_⟩, ⟨?_, ?_, ?_, ?_⟩⟩ <;>
    (try unfold HoldStoreFits) <;> (try unfold LogFits) <;> decide +kernel

theorem witness_EntriesKept : EntriesLegal busy ∧ StreamingOwned busy ∧
    StallLeavesSlotsEmpty { busy with up := .presented readReq (some 5) } ∧
    ¬ ChoiceOpen { busy with down := some (forwarded [7] 0) } := by
  refine ⟨fun k f h => ?_, fun k => ⟨?_, ?_⟩, fun _ => ⟨rfl, rfl⟩, fun h => nomatch h.1⟩
  · rw [busy_entries] at h
    split at h
    · cases h
      exact ⟨by decide, by decide, by decide, by decide⟩
    · cases h
  · rintro ⟨f, h, hp⟩
    rw [busy_entries] at h
    split at h
    · cases h
      cases hp
    · cases h
  · rintro ⟨tag, held, status, h⟩
    cases h

/-- The arbiter is free with nothing waiting, and is taken while a first beat waits downstream. -/
theorem witness_EntriesKept_choice : ArbiterChosen (withEntry 0 pendingRead) ∧
    StandingLegal (withEntry 0 pendingRead) ∧
    (let s : State := { withEntry 0 pendingRead with
      upResp := .generated .refusedSlot 17 1, standing := some ⟨0, 0, 0, true⟩ };
    ArbiterChosen s ∧ StandingLegal s) := by
  refine ⟨fun _ => ⟨rfl, nothingOwed_pending 0, ?_⟩, ?_, fun h => ?_, ?_⟩
  · rintro ⟨b, f, h, -⟩
    cases h
  · intro b h
    cases h
  · cases h
  · intro b h
    cases h
    exact ⟨rfl, rfl, pendingRead, by decide +kernel, .inl rfl⟩

theorem witness_OutstandingKept : OutstandingExact counted ∧ OutstandingBounded counted := by
  unfold OutstandingExact QueuesOwned OutstandingBounded
  decide +kernel

theorem witness_NoCommandStops :
    DownstreamOpen (withEntry 0 { pendingRead with phase := .streaming }) ∧
    (withEntry 0 { pendingRead with phase := .streaming }).entry 0 =
      some { pendingRead with phase := .streaming } := by
  unfold DownstreamOpen
  decide +kernel

theorem witness_KeptUntilPinReset : (∃ t, exec .quiesced busy = .next t) ∧ Instr.quiesced ≠ .pinReset ∧
    busy.entry 0 = some pendingRead := ⟨⟨_, rfl⟩, by decide, by decide +kernel⟩

end Sys2Proof.Tests
end

section
/-! The rules for a management command on one class (Chapter 2): the class that the object names, an effect at
fields of the class that the downstream request arbiter does not read, the contract fields. Then the statements on
STAGING_WRITE and DISCARD_PENDING. -/

namespace Sys2Proof.Machine

/-! ### The class that the object names -/

theorem onClass_of_class {o : Byte} {n : ClassId} (s : State) (run : ClassId → State × Answer)
    (h : o.toNat = n.val) : onClass o s run = run n := by
  have hn : classObject o = some n := by simp [classObject, h]
  rw [onClass, hn]

theorem onClass_of_no_class {o : Byte} (s : State) (run : ClassId → State × Answer)
    (h : 16 ≤ o.toNat) : onClass o s run = (s, refusal .badObject) := by
  have hn : classObject o = none := by simp [classObject, h]
  rw [onClass, hn]

/-! ### A change of one class outside what R91 reads -/

/-- The records agree in all that the downstream request arbiter reads of a class (R91). -/
def ArbiterReadsAlike (k l : ClassRec) : Prop :=
  k.queue = l.queue ∧ k.outstanding = l.outstanding ∧ k.state = l.state ∧
    k.remaining = l.remaining ∧ k.active = l.active

section
variable {s : State} {n : ClassId} {k : ClassRec}

theorem headReady_setCls (h : ArbiterReadsAlike k (s.cls n)) (c : ClassId) :
    headReady (s.setCls n k) c = headReady s c := by
  refine headReady_congr (s := s) (t := s.setCls n k) (fun d => ?_) rfl rfl c
  rw [State.cls_setCls]
  split
  · next e =>
    subst e
    exact h
  · exact ⟨rfl, rfl, rfl, rfl, rfl⟩

/-- Such a change opens and closes no choice of the arbiter (R94). -/
theorem choiceOpen_setCls (h : ArbiterReadsAlike k (s.cls n)) :
    choiceOpen (s.setCls n k) = choiceOpen s := by
  have hl : lowestFree (s.setCls n k) = lowestFree s := lowestFree_congr rfl
  have he : eligible (s.setCls n k) = eligible s := by
    funext c
    rw [eligible, eligible, hl, headReady_setCls h]
  simp [choiceOpen, nextHead, hl, he]

/-- A command whose effect is such a change leaves that change and its answer alone. -/
theorem manage_setCls {code o f : Byte} {v : Word32} {run : State → State × Answer} {a : Answer}
    (hs : Listening s) (hr : run s = (s.setCls n k, a)) (h : ArbiterReadsAlike k (s.cls n)) :
    ∃ t, manage code o f v run s = .next t ∧ OnlyPort (s.setCls n k) t ∧
      Answers t code a.status a.value :=
  manage_only s hs hr (noteTableFull_setCls rfl h) (choiceOpen_setCls h)

end

/-- A class reads the same in states that differ in the port alone. -/
theorem OnlyPort.cls_eq {s t : State} (h : OnlyPort s t) (n : ClassId) : t.cls n = s.cls n := by
  rw [show t = { s with port := t.port } from h]
  rfl

/-! ### The codes of the enumerated fields (02, section 2.3) -/

theorem modeCode_modeOf {v : Nat} (h : v ≤ 3) : modeCode (modeOf v) = v := by
  interval_cases v <;> rfl

theorem overBudgetCode_overBudgetOf {v : Nat} (h : v ≤ 2) : overBudgetCode (overBudgetOf v) = v := by
  interval_cases v <;> rfl

theorem overflowCode_overflowOf {v : Nat} (h : v ≤ 1) : overflowCode (overflowOf v) = v := by
  interval_cases v <;> rfl

theorem polarityCode_polarityOf {v : Nat} (h : v ≤ 1) : polarityCode (polarityOf v) = v := by
  interval_cases v <;> rfl

theorem syncEndCode_syncEndOf {v : Nat} (h : v ≤ 1) : syncEndCode (syncEndOf v) = v := by
  interval_cases v <;> rfl

/-! ### Reading a contract field after a replacement (R18) -/

theorem fieldInRange_iff (i : Fin 14) (v : Nat) :
    fieldInRange i v = true ↔ (fieldRange i).1 ≤ v ∧ v ≤ (fieldRange i).2 := by
  simp [fieldInRange]

/-- A value in range survives the coding of its field: it is stored as it is, or has a code of 02 section 2.3. -/
theorem contractField_setContractField_same (k : Contract) {i : Fin 14} {v : Nat}
    (h : v ≤ (fieldRange i).2) : contractField (setContractField k i v) i = v := by
  unfold setContractField
  split
  case h_1 => exact modeCode_modeOf h
  case h_7 => exact overBudgetCode_overBudgetOf h
  case h_8 => exact overflowCode_overflowOf h
  case h_12 => exact polarityCode_polarityOf h
  case h_13 => exact syncEndCode_syncEndOf h
  case h_14 => exact Nat.mod_eq_of_lt (Nat.lt_succ_of_le h)
  all_goals rfl

theorem contractField_setContractField_ne (k : Contract) {i j : Fin 14} (v : Nat) (h : j ≠ i) :
    contractField (setContractField k i v) j = contractField k j := by
  unfold setContractField
  split
  all_goals
    unfold contractField
    split <;> simp at h ⊢

/-! ### STAGING_WRITE (R18) -/

theorem exec_stagingWrite (n : ClassId) (i : Fin 14) (v : Word32) (s : State) :
    exec (.stagingWrite n i v) s = execStagingWrite n i v s := rfl

theorem runStagingWrite_of_inRange (n : ClassId) {i : Fin 14} {v : Word32} (s : State)
    (h : fieldInRange i v.toNat = true) : runStagingWrite n i v s =
      (s.setCls n { s.cls n with staging := setContractField (s.cls n).staging i v.toNat }, okay) := by
  simp [runStagingWrite, h]

theorem runStagingWrite_of_outOfRange (n : ClassId) {i : Fin 14} {v : Word32} (s : State)
    (h : ¬ fieldInRange i v.toNat = true) : runStagingWrite n i v s = (s, refusal .badValue) := by
  simp [runStagingWrite, h]

theorem exec_stagingWrite_of_inRange (n : ClassId) {i : Fin 14} {v : Word32} {s : State}
    (hs : Listening s) (h : fieldInRange i v.toNat = true) :
    ∃ t, exec (.stagingWrite n i v) s = .next t ∧
      OnlyPort (s.setCls n { s.cls n with staging := setContractField (s.cls n).staging i v.toNat }) t ∧
      Answers t 0x02 .ok 0 := by
  rw [exec_stagingWrite]
  exact manage_setCls hs (runStagingWrite_of_inRange n s h) ⟨rfl, rfl, rfl, rfl, rfl⟩

theorem exec_stagingWrite_of_outOfRange (n : ClassId) {i : Fin 14} {v : Word32} {s : State}
    (hs : Listening s) (h : ¬ fieldInRange i v.toNat = true) :
    ∃ t, exec (.stagingWrite n i v) s = .next t ∧ RefusedWith s t 0x02 .badValue := by
  rw [exec_stagingWrite]
  exact manage_refused s hs (runStagingWrite_of_outOfRange n s h)

/-- Settles O45. The staging copy is nothing that the arbiter reads, so the replacement stands alone; the field reads
back because a value in its range survives the field's coding. -/
theorem stagingWrite : Obligations.StagingWrite := by
  refine ⟨by decide, fun n i v s hs => ?_⟩
  rw [← fieldInRange_iff]
  refine ⟨fun hv => ?_, exec_stagingWrite_of_outOfRange n hs⟩
  obtain ⟨t, ht, hport, hans⟩ := exec_stagingWrite_of_inRange n hs hv
  have hmax := ((fieldInRange_iff i v.toNat).1 hv).2
  exact ⟨_, t, ht, hport, hans, contractField_setContractField_same _ hmax,
    fun j hj => contractField_setContractField_ne _ _ hj⟩

/-! ### DISCARD_PENDING (R24) -/

theorem exec_discardPending (o f : Byte) (v : Word32) (s : State) :
    exec (.discardPending o f v) s = execDiscardPending o f v s := rfl

theorem discardAt_of_waiting {s : State} {n : ClassId} (h : (s.cls n).waiting ≠ none) :
    discardAt s n = (s.setCls n { s.cls n with waiting := none }, okay) := by
  simp [discardAt, Option.isSome_iff_ne_none, h]

theorem discardAt_of_no_waiting {s : State} {n : ClassId} (h : (s.cls n).waiting = none) :
    discardAt s n = (s, refusal .empty) := by
  simp [discardAt, h]

/-- A legal class has no pending copy in STOPPED and EXPIRED (R14). -/
theorem ClassLegal.waiting_eq_none {n : ClassId} {k : ClassRec} (h : ClassLegal n k)
    (hk : k.state = .stopped ∨ k.state = .expired) : k.waiting = none := by
  by_contra hw
  rcases h.waitingState hw with e | e | e <;> rcases hk with hk | hk <;> simp [e] at hk

theorem exec_discardPending_of_waiting {o : Byte} {s : State} {n : ClassId} (f : Byte) (v : Word32)
    (hs : Listening s) (ho : o.toNat = n.val) (h : (s.cls n).waiting ≠ none) :
    ∃ t, exec (.discardPending o f v) s = .next t ∧
      OnlyPort (s.setCls n { s.cls n with waiting := none }) t ∧ Answers t 0x11 .ok 0 := by
  have hr : runDiscard o s = (s.setCls n { s.cls n with waiting := none }, okay) := by
    rw [runDiscard, onClass_of_class s _ ho, discardAt_of_waiting h]
  rw [exec_discardPending]
  exact manage_setCls hs hr ⟨rfl, rfl, rfl, rfl, rfl⟩

theorem exec_discardPending_of_no_waiting {o : Byte} {s : State} {n : ClassId} (f : Byte) (v : Word32)
    (hs : Listening s) (ho : o.toNat = n.val) (h : (s.cls n).waiting = none) :
    ∃ t, exec (.discardPending o f v) s = .next t ∧ RefusedWith s t 0x11 .empty := by
  have hr : runDiscard o s = (s, refusal .empty) := by
    rw [runDiscard, onClass_of_class s _ ho, discardAt_of_no_waiting h]
  rw [exec_discardPending]
  exact manage_refused s hs hr

theorem exec_discardPending_of_no_class {o : Byte} {s : State} (f : Byte) (v : Word32)
    (hs : Listening s) (ho : 16 ≤ o.toNat) :
    ∃ t, exec (.discardPending o f v) s = .next t ∧ RefusedWith s t 0x11 .badObject := by
  rw [exec_discardPending]
  exact manage_refused s hs (onClass_of_no_class s _ ho)

/-- Settles O47, by whether the object names a class and whether that class has a pending copy. -/
theorem discardPending : Obligations.DiscardPending := by
  intro o f v s hs
  refine ⟨fun n ho => ⟨fun hw => ?_, exec_discardPending_of_no_waiting f v hs ho, fun hl hk => ?_⟩,
    exec_discardPending_of_no_class f v hs⟩
  · obtain ⟨t, ht, hport, hans⟩ := exec_discardPending_of_waiting f v hs ho hw
    have hnext : nextContract (t.cls n) = (s.cls n).active := by
      simp [hport.cls_eq, nextContract]
    exact ⟨t, ht, hport, hans, hnext⟩
  · exact exec_discardPending_of_no_waiting f v hs ho (hl.waiting_eq_none hk)

end Sys2Proof.Machine
end

section
/-! The tick generator's dividers (R33, R34). The decisions, the grants and the happenings still due from the tick before
leave them; then the divider of the interval that a TICK begins, and the statement on TICK_DIV_WRITE. -/

namespace Sys2Proof.Machine

/-- The TICK-DIV setting and the divider of the interval in progress. -/
def dividers (s : State) : TickDiv × TickDiv := (s.tickDiv, s.intervalDiv)

theorem tickDiv_eq_of_dividers {s t : State} (h : dividers t = dividers s) : t.tickDiv = s.tickDiv :=
  congrArg Prod.fst h

theorem intervalDiv_eq_of_dividers {s t : State} (h : dividers t = dividers s) : t.intervalDiv = s.intervalDiv :=
  congrArg Prod.snd h

section
variable (s t : State)

/-! ### The updates of the state -/

@[simp] theorem setCls_dividers (c : ClassId) (k : ClassRec) : dividers (s.setCls c k) = dividers s := rfl

@[simp] theorem mapCls_dividers (f : ClassId → ClassRec → ClassRec) : dividers (s.mapCls f) = dividers s := by
  simp [dividers]

@[simp] theorem setEntry_dividers (k : EntryIndex) (e : Option Flight) : dividers (s.setEntry k e) = dividers s := rfl

@[simp] theorem setFilter_dividers (line : Line) (f : Filter) : dividers (s.setFilter line f) = dividers s := by
  simp [dividers]

@[simp] theorem raiseGlobal_dividers (kind : GlobalKind) : dividers (raiseGlobal kind s) = dividers s := by
  simp [dividers]

/-! ### The tests after a happening and the choice of a response -/

@[simp] theorem noteTableFull_dividers : dividers (noteTableFull s t) = dividers t := by
  rcases noteTableFull_cases s t with e | e <;> simp [e]

@[simp] theorem testDrain_dividers : dividers (testDrain s) = dividers s := by
  rcases testDrain_cases s with e | ⟨-, -, e⟩
  · rw [e]
  · rw [e, raiseGlobal_dividers]
    rfl

@[simp] theorem chooseGenerated_dividers : dividers (chooseGenerated s) = dividers s := by
  rcases chooseGenerated_cases s with e | ⟨-, _, _, _, e⟩ <;> rw [e]
  rfl

/-! ### Decisions (R70, R77) -/

@[simp] theorem enterRefused_dividers (c : ClassId) (r : Request) : dividers (enterRefused c r s) = dividers s :=
  chooseGenerated_dividers (fillRefused c r s)

@[simp] theorem attemptJoin_dividers (c : ClassId) (r : Request) : dividers (attemptJoin c r s) = dividers s := by
  unfold attemptJoin
  split
  · rfl
  · dsimp only
    split
    · simp
    · rfl

@[simp] theorem overBudgetStep_dividers (c : ClassId) (r : Request) : dividers (overBudgetStep c r s) = dividers s := by
  unfold overBudgetStep
  dsimp only
  split
  · simp
  · rfl
  · simp

@[simp] theorem decideClassed_dividers (c : ClassId) (r : Request) : dividers (decideClassed c r s) = dividers s := by
  unfold decideClassed
  dsimp only
  split
  · simp
  · split
    · split
      · rfl
      · simp
    · split
      · simp
      · split
        · rfl
        · simp

@[simp] theorem decidePresented_dividers : dividers (decidePresented s) = dividers s := by
  rcases decidePresented_cases s with e | ⟨r, -, -, -, e⟩ <;> rw [e]
  unfold decideRequest
  split
  · rfl
  · simp

@[simp] theorem redecide_dividers : dividers (redecide s) = dividers s := by
  rcases redecide_cases s with e | e <;> simp [e]

@[simp] theorem redecideAt_dividers (c : ClassId) : dividers (redecideAt c s) = dividers s := by
  rcases redecideAt_cases s c with e | e <;> simp [e]

@[simp] theorem atClass_dividers (c : ClassId) (f : ClassRec → ClassRec × Bool) :
    dividers (atClass c f s) = dividers s := by
  unfold atClass
  dsimp only
  split <;> simp

@[simp] theorem atAllClasses_dividers (f : ClassId → ClassRec → ClassRec × Bool) :
    dividers (atAllClasses f s) = dividers s := by
  unfold atAllClasses
  split <;> simp

/-! ### Grants and the choice that follows a happening (R94) -/

@[simp] theorem takeThrough_dividers (k : EntryIndex) (a : Accepted) : dividers (takeThrough k a s) = dividers s := rfl

@[simp] theorem takeHead_dividers (c : ClassId) (k : EntryIndex) (a : Accepted) (rest : List Accepted) :
    dividers (takeHead c k a rest s) = dividers s := rfl

@[simp] theorem grantThrough_dividers : dividers (grantThrough s) = dividers s := by
  unfold grantThrough
  split
  · split <;> simp
  · rfl

@[simp] theorem grantQueues_dividers : dividers (grantQueues s) = dividers s := by
  unfold grantQueues
  split
  · split
    · split <;> simp
    · rfl
  · rfl

@[simp] theorem follow_dividers : dividers (follow s t) = dividers t := by
  rcases follow_cases s t with e | ⟨-, -, e⟩ <;> rw [e]
  rcases grantNext_cases t with e | e <;> simp [e]

/-- A happening leaves the dividers that its own change leaves. -/
@[simp] theorem noted_dividers (f : State → State) : dividers (noted f s) = dividers (f s) := by
  simp [noted]

/-! ### The happenings still due from the tick before -/

theorem foldl_dividers {α : Type} {g : State → α → State} (hg : ∀ u a, dividers (g u a) = dividers u) (l : List α) :
    dividers (l.foldl g s) = dividers s := by
  induction l generalizing s with
  | nil => rfl
  | cons a l ih => exact (ih (g s a)).trans (hg s a)

@[simp] theorem takeCopies_dividers (line : Line) (l : List ClassId) : dividers (takeCopies line l s) = dividers s :=
  foldl_dividers s (fun u n => by simp [classTakesCopy]) l

@[simp] theorem settleCopies_dividers (line : Line) : dividers (settleCopies line s) = dividers s :=
  takeCopies_dividers s line _

@[simp] theorem settleClasses_dividers : dividers (settleClasses s) = dividers s :=
  foldl_dividers s (fun u n => by simp [classTakesTick]) _

@[simp] theorem sampleLine_dividers (line : Line) (raw : Level) : dividers (sampleLine line raw s) = dividers s := by
  unfold sampleLine
  dsimp only
  split <;> simp [oweCopies]

@[simp] theorem sampleInTurn_dividers (line : Line) (raw : Level) :
    dividers (sampleInTurn line raw s) = dividers s := by
  unfold sampleInTurn
  split <;> simp

@[simp] theorem takeEdge_dividers (line : Line) (taking : EdgeTaking) :
    dividers (takeEdge line taking s) = dividers s := by
  unfold takeEdge
  split <;> simp

@[simp] theorem settleLine_dividers (line : Line) : dividers (settleLine line s) = dividers s := by
  unfold settleLine
  split <;> simp

@[simp] theorem completionNotice_dividers (c : ClassId) (f : Flight) (status : RespStatus) :
    dividers (completionNotice c f status s) = dividers s := by
  rcases completionNotice_cases s c f status with e | ⟨-, e⟩ | ⟨-, e⟩ <;> rw [e]
  · rfl
  · rfl
  · rw [raiseGlobal_dividers]
    rfl

@[simp] theorem loseRequest_dividers (k : EntryIndex) (f : Flight) : dividers (loseRequest k f s) = dividers s := by
  unfold loseRequest
  dsimp only
  split <;> simp [lowerOutstanding]

@[simp] theorem reachDeadline_dividers (k : EntryIndex) : dividers (reachDeadline k s) = dividers s := by
  unfold reachDeadline
  split
  · split <;> simp [abandonEntry]
  · rfl

@[simp] theorem settleDeadlines_dividers : dividers (settleDeadlines s) = dividers s :=
  foldl_dividers s (fun u k => by simp) _

/-- What a TICK settles first leaves the dividers. -/
theorem settleTick_dividers : dividers (settleTick s) = dividers s := by
  simp [settleTick]

end

/-! ### TICK (R33) -/

theorem exec_tick (frame gate : Level) (later : List ClassId) (s : State) :
    exec (.tick frame gate later) s = execTick frame gate later s := rfl

theorem tickOnce_intervalDiv (frame gate : Level) (later : List ClassId) (s : State) :
    (tickOnce frame gate later s).intervalDiv = s.tickDiv := rfl

/-- A TICK begins an interval under the TICK-DIV setting that it finds. -/
theorem intervalDiv_of_exec_tick {frame gate : Level} {later : List ClassId} {s u : State} (hs : s.resetN = .high)
    (h : exec (.tick frame gate later) s = .next u) : u.intervalDiv = s.tickDiv := by
  rw [exec_tick, execTick, happening_high s hs] at h
  have hu : dividers u = dividers (tickOnce frame gate later (settleTick s)) := by
    rw [← Host.Outcome.next.inj h, noted_dividers]
  calc u.intervalDiv = (tickOnce frame gate later (settleTick s)).intervalDiv := intervalDiv_eq_of_dividers hu
    _ = (settleTick s).tickDiv := tickOnce_intervalDiv ..
    _ = s.tickDiv := tickDiv_eq_of_dividers (settleTick_dividers s)

/-! ### TICK_DIV_WRITE (R34) -/

theorem tickDivOf_tickClocks {v : Word32} {d : TickDiv} (h : v.toNat = tickClocks d) : tickDivOf v = some d := by
  cases d <;> simp [tickDivOf, h, tickClocks]

theorem tickDivOf_eq_none {v : Word32} (h : v.toNat ∉ [1, 4, 16, 64, 256]) : tickDivOf v = none := by
  unfold tickDivOf
  split <;> simp_all

theorem allStopped_iff (s : State) : allStopped s = true ↔ AllStopped s := by
  simp [allStopped, AllStopped]

theorem exec_tickDivWrite (v : Word32) (s : State) : exec (.tickDivWrite v) s = execTickDivWrite v s := rfl

theorem runTickDivWrite_of_quiet {v : Word32} {d : TickDiv} {s : State} (hv : v.toNat = tickClocks d)
    (hq : s.quiesce = .quiesced ∨ AllStopped s) : runTickDivWrite v s = ({ s with tickDiv := d }, okay) := by
  rw [← allStopped_iff] at hq
  simp [runTickDivWrite, tickDivOf_tickClocks hv, hq]

theorem runTickDivWrite_of_not_quiet {v : Word32} {d : TickDiv} {s : State} (hv : v.toNat = tickClocks d)
    (hq : ¬ (s.quiesce = .quiesced ∨ AllStopped s)) : runTickDivWrite v s = (s, refusal .stateRefused) := by
  rw [← allStopped_iff] at hq
  simp [runTickDivWrite, tickDivOf_tickClocks hv, hq]

theorem runTickDivWrite_of_outOfRange {v : Word32} (s : State) (hv : v.toNat ∉ [1, 4, 16, 64, 256]) :
    runTickDivWrite v s = (s, refusal .badValue) := by
  simp [runTickDivWrite, tickDivOf_eq_none hv]

/-- The setting is nothing that the downstream request arbiter reads, so an accepted write stands alone. -/
theorem exec_tickDivWrite_of_quiet {v : Word32} {d : TickDiv} {s : State} (hs : Listening s)
    (hv : v.toNat = tickClocks d) (hq : s.quiesce = .quiesced ∨ AllStopped s) :
    ∃ t, exec (.tickDivWrite v) s = .next t ∧ OnlyPort { s with tickDiv := d } t ∧ Answers t 0x02 .ok 0 := by
  rw [exec_tickDivWrite]
  exact manage_only s hs (runTickDivWrite_of_quiet hv hq) (noteTableFull_elsewhere rfl rfl rfl rfl rfl) rfl

/-- Settles O51, by the value and then the state of the device. An accepted write touches the setting alone, so the
interval in progress keeps its divider; the next TICK reads the setting, which nothing that it settles first changes. -/
theorem tickDivWrite : Obligations.TickDivWrite := by
  refine fun v s hs => ⟨fun d hv => ⟨fun hq => ?_, fun hn ha => ?_⟩, fun hv => ?_⟩
  · obtain ⟨t, ht, hport, hans⟩ := exec_tickDivWrite_of_quiet hs hv hq
    have hreset : t.resetN = .high := (congrArg State.resetN hport).trans hs.1
    have hset : t.tickDiv = d := congrArg State.tickDiv hport
    have hkept : t.intervalDiv = s.intervalDiv := (congrArg State.intervalDiv hport :)
    refine ⟨t, ht, hport, hans, congrArg tickClocks hkept, fun f g later u hu => ?_⟩
    rw [intervalClocks, intervalDiv_of_exec_tick hreset hu, hset, hv]
  · exact manage_refused s hs (runTickDivWrite_of_not_quiet hv (not_or.2 ⟨hn, ha⟩))
  · exact manage_refused s hs (runTickDivWrite_of_outOfRange s hv)

end Sys2Proof.Machine
end

section
/-! The downstream request arbiter's test of a head (R91): the flush option, the release that the class state allows,
the head that waits for an in-flight entry alone, and the statement on eligibility. -/

namespace Sys2Proof.Machine

variable {s : State} {c : ClassId}

/-- One of the three rows of R91's table holds of the class and its head `a`: the regulated release, the unregulated
one, the flush. -/
def ReleaseAllowed (s : State) (c : ClassId) (a : Accepted) : Prop :=
  ((s.cls c).state = .running ∧ a.charge ≤ (s.cls c).remaining ∧ (s.cls c).outstanding < (s.cls c).active.outLimit) ∨
    Unregulated (s.cls c) ∨ (s.quiesce = .quiescing ∧ s.flush = true)

theorem flushInForce_iff : flushInForce s = true ↔ s.quiesce = .quiescing ∧ s.flush = true := by
  simp [flushInForce]

theorem lowestFree_isSome_iff : (lowestFree s).isSome = true ↔ ∃ k, s.entry k = none := by
  rw [Option.isSome_iff_ne_none, lowestFree_ne_none]

theorem headReady_of_queue_nil (h : (s.cls c).queue = []) : headReady s c = false := by
  simp [headReady, h]

/-- The first two rows of R91's table go by the class state; ARMED has the flush row alone. -/
theorem headReady_of_queue_cons {a : Accepted} {q : List Accepted} (h : (s.cls c).queue = a :: q) :
    headReady s c = true ↔ (s.cls c).outstanding < Config.outstandingCeiling ∧ ReleaseAllowed s c a := by
  unfold ReleaseAllowed
  rw [← flushInForce_iff]
  cases hst : (s.cls c).state with
  | running => simp [headReady, h, hst, Unregulated, or_comm]
  | armed | stopped | suspended | expired => simp [headReady, h, hst, Unregulated]

theorem headReady_iff :
    headReady s c = true ↔
      (s.cls c).outstanding < Config.outstandingCeiling ∧ ∃ a q, (s.cls c).queue = a :: q ∧ ReleaseAllowed s c a := by
  cases hq : (s.cls c).queue with
  | nil => simp [headReady_of_queue_nil hq]
  | cons a q => simp [headReady_of_queue_cons hq]

theorem eligible_iff : eligible s c = true ↔ (∃ k, s.entry k = none) ∧ headReady s c = true := by
  rw [eligible, Bool.and_eq_true, lowestFree_isSome_iff]

/-- Settles O21: a free entry, and a head that meets the rest of R91, by the queue and then by the class state. -/
theorem headEligible : Obligations.HeadEligible := fun _ _ =>
  eligible_iff.trans (and_congr_right' headReady_iff)

end Sys2Proof.Machine
end

section
/-! The views of the latency statistics (R136, R141). A view and the log are nothing that the test of R99 or the
downstream request arbiter reads, so SNAPSHOT and POP_CAPTURE leave their own effect alone; then the statement on both. -/

namespace Sys2Proof.Machine

/-! ### SNAPSHOT (R136) -/

theorem exec_snapshot (o f : Byte) (v : Word32) (s : State) : exec (.snapshot o f v) s = execSnapshot o f v s := rfl

theorem snapshotAt_zero (s : State) (n : ClassId) :
    snapshotAt 0 s n = (takeSnapshot n s, answer s.timebase) := rfl

theorem snapshotAt_one (s : State) (n : ClassId) :
    snapshotAt 1 s n =
      ((takeSnapshot n s).setCls n { s.cls n with live := clearStats }, answer s.timebase) := rfl

theorem snapshotAt_of_badValue {v : Word32} (s : State) (n : ClassId) (h0 : v ≠ 0) (h1 : v ≠ 1) :
    snapshotAt v s n = (s, refusal .badValue) := by
  rw [snapshotAt, if_neg h0, if_neg h1]

theorem noteTableFull_takeSnapshot (n : ClassId) (s t : State) :
    noteTableFull (takeSnapshot n s) t = noteTableFull s t := rfl

theorem choiceOpen_takeSnapshot (n : ClassId) (s : State) : choiceOpen (takeSnapshot n s) = choiceOpen s := rfl

/-- The statistics record is nothing that the downstream request arbiter reads of a class (R91). -/
theorem arbiterReadsAlike_live (k : ClassRec) (l : Stats) : ArbiterReadsAlike { k with live := l } k :=
  ⟨rfl, rfl, rfl, rfl, rfl⟩

section
variable {o : Byte} {s : State} {n : ClassId} (f : Byte)

theorem exec_snapshot_copies (hs : Listening s) (ho : o.toNat = n.val) :
    ∃ t, exec (.snapshot o f 0) s = .next t ∧ OnlyPort (takeSnapshot n s) t ∧
      Answers t 0x20 .ok s.timebase := by
  have hr : runSnapshot o 0 s = (takeSnapshot n s, answer s.timebase) := by
    rw [runSnapshot, onClass_of_class s _ ho, snapshotAt_zero]
  rw [exec_snapshot]
  exact manage_only s hs hr (noteTableFull_elsewhere rfl rfl rfl rfl rfl) (choiceOpen_takeSnapshot n s)

/-- With value 1 the copy is taken first, and the record is then cleared in the state that holds the copy. -/
theorem exec_snapshot_copies_and_clears (hs : Listening s) (ho : o.toNat = n.val) :
    ∃ t, exec (.snapshot o f 1) s = .next t ∧
      OnlyPort ((takeSnapshot n s).setCls n { s.cls n with live := clearStats }) t ∧
      Answers t 0x20 .ok s.timebase := by
  have hr : runSnapshot o 1 s =
      ((takeSnapshot n s).setCls n { s.cls n with live := clearStats }, answer s.timebase) := by
    rw [runSnapshot, onClass_of_class s _ ho, snapshotAt_one]
  have hread : ArbiterReadsAlike { s.cls n with live := clearStats } ((takeSnapshot n s).cls n) :=
    arbiterReadsAlike_live (s.cls n) clearStats
  have hfull := noteTableFull_setCls (s := takeSnapshot n s) rfl hread
  rw [noteTableFull_takeSnapshot] at hfull
  have hchoice := choiceOpen_setCls hread
  rw [choiceOpen_takeSnapshot] at hchoice
  rw [exec_snapshot]
  exact manage_only s hs hr hfull hchoice

theorem exec_snapshot_of_badValue {v : Word32} (hs : Listening s) (ho : o.toNat = n.val) (h0 : v ≠ 0)
    (h1 : v ≠ 1) : ∃ t, exec (.snapshot o f v) s = .next t ∧ RefusedWith s t 0x20 .badValue := by
  have hr : runSnapshot o v s = (s, refusal .badValue) := by
    rw [runSnapshot, onClass_of_class s _ ho, snapshotAt_of_badValue s n h0 h1]
  rw [exec_snapshot]
  exact manage_refused s hs hr

theorem exec_snapshot_of_no_class (v : Word32) (hs : Listening s) (ho : 16 ≤ o.toNat) :
    ∃ t, exec (.snapshot o f v) s = .next t ∧ RefusedWith s t 0x20 .badObject := by
  rw [exec_snapshot]
  exact manage_refused s hs (onClass_of_no_class s _ ho)

end

/-! ### POP_CAPTURE (R141) -/

theorem exec_popCapture (o f : Byte) (v : Word32) (s : State) :
    exec (.popCapture o f v) s = execPopCapture o f v s := rfl

theorem runPopCapture_of_cons {s : State} {r : Capture} {rest : List Capture} (h : s.log = r :: rest) :
    runPopCapture 0x35 s = ({ s with log := rest, captureView := some r }, answer (word rest.length)) := by
  simp [runPopCapture, h]

theorem runPopCapture_of_nil {s : State} (h : s.log = []) : runPopCapture 0x35 s = (s, refusal .empty) := by
  simp [runPopCapture, h]

theorem runPopCapture_of_other {o : Byte} (s : State) (h : o ≠ 0x35) :
    runPopCapture o s = (s, refusal .badObject) :=
  if_neg h

section
variable {s : State} (f : Byte) (v : Word32)

theorem exec_popCapture_of_cons {r : Capture} {rest : List Capture} (hs : Listening s)
    (h : s.log = r :: rest) :
    ∃ t, exec (.popCapture 0x35 f v) s = .next t ∧
      OnlyPort { s with log := rest, captureView := some r } t ∧
      Answers t 0x21 .ok (BitVec.ofNat 32 rest.length) := by
  rw [exec_popCapture]
  exact manage_only s hs (runPopCapture_of_cons h) (noteTableFull_elsewhere rfl rfl rfl rfl rfl) rfl

theorem exec_popCapture_of_nil (hs : Listening s) (h : s.log = []) :
    ∃ t, exec (.popCapture 0x35 f v) s = .next t ∧ RefusedWith s t 0x21 .empty := by
  rw [exec_popCapture]
  exact manage_refused s hs (runPopCapture_of_nil h)

theorem exec_popCapture_of_other {o : Byte} (hs : Listening s) (h : o ≠ 0x35) :
    ∃ t, exec (.popCapture o f v) s = .next t ∧ RefusedWith s t 0x21 .badObject := by
  rw [exec_popCapture]
  exact manage_refused s hs (runPopCapture_of_other s h)

end

/-- Settles O53: SNAPSHOT by the object and then the value, POP_CAPTURE by the object and then the log. -/
theorem snapshotAndPop : Obligations.SnapshotAndPop := by
  intro o f v s hs
  refine ⟨fun n ho => ⟨?_, ?_, exec_snapshot_of_badValue f hs ho⟩, exec_snapshot_of_no_class f v hs, ?_, ?_,
    exec_popCapture_of_other f v hs⟩
  · rintro rfl
    obtain ⟨t, ht, hport, hans⟩ := exec_snapshot_copies f hs ho
    exact ⟨t, ht, hans, hport⟩
  · rintro rfl
    obtain ⟨t, ht, hport, hans⟩ := exec_snapshot_copies_and_clears f hs ho
    exact ⟨t, ht, hans, hport⟩
  · rintro rfl r rest hl
    exact exec_popCapture_of_cons f v hs hl
  · rintro rfl hl
    exact exec_popCapture_of_nil f v hs hl

end Sys2Proof.Machine
end

section
/-! Events and the alert line (Chapter 8). A set of flags as a value word has each flag in the place of its kind number;
READ_EVENTS clears flags, which neither the test of R99 nor the downstream request arbiter reads, so it leaves its own
effect alone. Then ALERT_N, the one signal of all the flags, and the bit of the response that shows it. -/

namespace Sys2Proof.Machine

/-! ### The kinds and their numbers (R145) -/

/-- The per-class kinds are listed in the order of their numbers, from 0. -/
theorem classKinds_at_number (kind : ClassKind) : classKinds[(classKindNumber kind).val]? = some kind := by
  cases kind <;> rfl

/-- The global kinds are listed in the order of their numbers, from 7. -/
theorem globalKinds_at_number (kind : GlobalKind) : globalKinds[(globalKindNumber kind).val - 7]? = some kind := by
  cases kind <;> rfl

@[simp] theorem mem_classKinds (kind : ClassKind) : kind ∈ classKinds :=
  List.mem_of_getElem? (classKinds_at_number kind)

@[simp] theorem mem_globalKinds (kind : GlobalKind) : kind ∈ globalKinds :=
  List.mem_of_getElem? (globalKinds_at_number kind)

theorem classKindNumber_injective : Function.Injective classKindNumber := fun a b h =>
  Option.some.inj (by rw [← classKinds_at_number a, h, classKinds_at_number b])

theorem globalKindNumber_injective : Function.Injective globalKindNumber := fun a b h =>
  Option.some.inj (by rw [← globalKinds_at_number a, h, globalKinds_at_number b])

theorem classKindNumber_lt (kind : ClassKind) : (classKindNumber kind).val < 7 := by
  cases kind <;> decide

theorem globalKindNumber_ge (kind : GlobalKind) : 7 ≤ (globalKindNumber kind).val := by
  cases kind <;> decide

/-! ### A flag set as a value word (R165) -/

theorem getLsbD_flagBit (set : Bool) (n : Fin 11) (i : Nat) :
    (flagBit set n.val).getLsbD i = true ↔ set = true ∧ n.val = i := by
  have hn : n.val < 32 := by omega
  cases set with
  | false => simp [flagBit]
  | true =>
    simp only [flagBit, ↓reduceIte, BitVec.getLsbD_shiftLeft, BitVec.getLsbD_one, Nat.ofNat_pos, decide_true,
      Bool.true_and, Bool.and_eq_true, decide_eq_true_eq, Bool.not_eq_eq_eq_not, Bool.not_true,
      decide_eq_false_iff_not, not_lt, true_and]
    omega

/-- A bit of the word that joins the flags of some kinds is the flag of a kind that has the bit's number. -/
theorem getLsbD_joined {K : Type} (kinds : List K) (flag : K → Bool) (number : K → Fin 11) (i : Nat) :
    ((kinds.map fun kind => flagBit (flag kind) (number kind).val).foldr (· ||| ·) 0#32).getLsbD i = true ↔
      ∃ kind ∈ kinds, flag kind = true ∧ (number kind).val = i := by
  induction kinds with
  | nil => simp
  | cons kind kinds ih => simp [getLsbD_flagBit, ih]

theorem getLsbD_classFlagWord (f : ClassFlags) (i : Nat) :
    (classFlagWord f).getLsbD i = true ↔ ∃ kind, classFlag f kind = true ∧ (classKindNumber kind).val = i := by
  simp [classFlagWord, getLsbD_joined]

theorem getLsbD_globalFlagWord (f : GlobalFlags) (i : Nat) :
    (globalFlagWord f).getLsbD i = true ↔ ∃ kind, globalFlag f kind = true ∧ (globalKindNumber kind).val = i := by
  simp [globalFlagWord, getLsbD_joined]

/-- Each flag of a class is in the place of its kind number: no other kind has this number. -/
theorem classFlagWord_at_number (f : ClassFlags) (kind : ClassKind) :
    (classFlagWord f).getLsbD (classKindNumber kind).val = classFlag f kind := by
  rw [Bool.eq_iff_iff, getLsbD_classFlagWord]
  simp [Fin.val_inj, classKindNumber_injective.eq_iff]

theorem globalFlagWord_at_number (f : GlobalFlags) (kind : GlobalKind) :
    (globalFlagWord f).getLsbD (globalKindNumber kind).val = globalFlag f kind := by
  rw [Bool.eq_iff_iff, getLsbD_globalFlagWord]
  simp [Fin.val_inj, globalKindNumber_injective.eq_iff]

theorem classFlagWord_elsewhere (f : ClassFlags) {i : Nat} (h : 7 ≤ i) : (classFlagWord f).getLsbD i = false := by
  rw [Bool.eq_false_iff, ne_eq, getLsbD_classFlagWord]
  rintro ⟨kind, -, rfl⟩
  exact absurd (classKindNumber_lt kind) (by omega)

theorem globalFlagWord_elsewhere (f : GlobalFlags) {i : Nat} (h : i < 7 ∨ 11 ≤ i) :
    (globalFlagWord f).getLsbD i = false := by
  rw [Bool.eq_false_iff, ne_eq, getLsbD_globalFlagWord]
  rintro ⟨kind, -, rfl⟩
  have hge := globalKindNumber_ge kind
  omega

/-! ### READ_EVENTS (R149) -/

theorem exec_readEvents (o f : Byte) (v : Word32) (s : State) :
    exec (.readEvents o f v) s = execReadEvents o f v s := rfl

theorem runReadEvents_of_class {o : Byte} {n : ClassId} (s : State) (h : o.toNat = n.val) :
    runReadEvents o s =
      (s.setCls n { s.cls n with flags := noClassFlags }, answer (classFlagWord (s.cls n).flags)) := by
  have hn : classObject o = some n := by simp [classObject, h]
  simp [runReadEvents, hn]

theorem runReadEvents_of_global (s : State) :
    runReadEvents 0x36 s = ({ s with gflags := noGlobalFlags }, answer (globalFlagWord s.gflags)) := rfl

theorem runReadEvents_of_other {o : Byte} (s : State) (h : 16 ≤ o.toNat) (ho : o ≠ 0x36) :
    runReadEvents o s = (s, refusal .badObject) := by
  have hn : classObject o = none := by simp [classObject, h]
  simp only [runReadEvents, hn, if_neg ho]

section
variable {o : Byte} {s : State} (f : Byte) (v : Word32)

theorem exec_readEvents_of_class {n : ClassId} (hs : Listening s) (ho : o.toNat = n.val) :
    ∃ t, exec (.readEvents o f v) s = .next t ∧
      OnlyPort (s.setCls n { s.cls n with flags := noClassFlags }) t ∧
      Answers t 0x22 .ok (classFlagWord (s.cls n).flags) := by
  rw [exec_readEvents]
  exact manage_setCls hs (runReadEvents_of_class s ho) ⟨rfl, rfl, rfl, rfl, rfl⟩

theorem exec_readEvents_of_global (hs : Listening s) :
    ∃ t, exec (.readEvents 0x36 f v) s = .next t ∧ OnlyPort { s with gflags := noGlobalFlags } t ∧
      Answers t 0x22 .ok (globalFlagWord s.gflags) := by
  rw [exec_readEvents]
  exact manage_only s hs (runReadEvents_of_global s) (noteTableFull_elsewhere rfl rfl rfl rfl rfl) rfl

theorem exec_readEvents_of_other (hs : Listening s) (h : 16 ≤ o.toNat) (ho : o ≠ 0x36) :
    ∃ t, exec (.readEvents o f v) s = .next t ∧ RefusedWith s t 0x22 .badObject := by
  rw [exec_readEvents]
  exact manage_refused s hs (runReadEvents_of_other s h ho)

end

/-- Settles O35, by the set that the object names: a class's, the global one, none. -/
theorem eventsReadAndCleared : Obligations.EventsReadAndCleared := by
  intro o f v s hs
  refine ⟨fun n ho => ?_, ?_, exec_readEvents_of_other f v hs⟩
  · obtain ⟨t, ht, hport, hans⟩ := exec_readEvents_of_class f v hs ho
    exact ⟨t, _, ht, hport, hans, classFlagWord_at_number _, fun _ => classFlagWord_elsewhere _⟩
  · rintro rfl
    obtain ⟨t, ht, hport, hans⟩ := exec_readEvents_of_global f v hs
    exact ⟨t, _, ht, hport, hans, globalFlagWord_at_number _, fun _ => globalFlagWord_elsewhere _⟩

/-! ### ALERT_N (R147) -/

/-- A flag of an enabled kind, of some class or global, is set. -/
theorem alertCause_iff (s : State) :
    alertCause s = true ↔
      (∃ (n : ClassId) (kind : ClassKind), classFlag (s.cls n).flags kind = true ∧
        s.enables[classKindNumber kind] = true) ∨
      ∃ kind : GlobalKind, globalFlag s.gflags kind = true ∧ s.enables[globalKindNumber kind] = true := by
  simp [alertCause]

theorem alertActive_iff (s : State) : alertActive s = true ↔ s.resetN = .high ∧ alertCause s = true := by
  simp [alertActive]

theorem alertN_eq_low_iff (s : State) : alertN s = .low ↔ alertActive s = true := by
  cases h : alertActive s <;> simp [alertN, h]

/-- The quiesce state is shown in bit 1 and leaves bit 0 to the alert (R165). -/
theorem responseFlags_bit_zero (s : State) : (responseFlags s).getLsbD 0 = alertActive s := by
  have hquiesce : (if s.quiesce = .normal then 0#8 else 2#8).getLsbD 0 = false := by split <;> rfl
  rw [responseFlags, BitVec.getLsbD_or, hquiesce, Bool.or_false]
  cases alertActive s <;> rfl

/-- Settles O36, through the alert's cause and the bit of the response that repeats it. -/
theorem alertLine : Obligations.AlertLine := by
  intro s
  rw [responseFlags_bit_zero, alertN_eq_low_iff]
  exact ⟨(alertActive_iff s).trans (and_congr_right' (alertCause_iff s)), Iff.rfl⟩

end Sys2Proof.Machine
end

section
/-! NOP (R168), and the frame that carries its answer out: the opening of a frame is nothing that the test of R99 or the
downstream request arbiter reads. -/

namespace Sys2Proof.Machine

variable {s t : State}

theorem exec_nop (o f : Byte) (v : Word32) (s : State) : exec (.nop o f v) s = execNop o f v s := rfl

theorem exec_nop_answers (o f : Byte) (v : Word32) (hs : Listening s) :
    ∃ t, exec (.nop o f v) s = .next t ∧ OnlyPort s t ∧ Answers t 0x00 .ok 0 := by
  rw [exec_nop]
  exact manage_only s hs (a := okay) rfl (noteTableFull_self s) rfl

/-- The alert is shown in bit 0 and leaves bit 1 to the quiesce state (R165). -/
theorem responseFlags_bit_one (s : State) : (responseFlags s).getLsbD 1 = true ↔ s.quiesce ≠ .normal := by
  have halert : (if alertActive s then 1#8 else 0#8).getLsbD 1 = false := by split <;> rfl
  rw [responseFlags, BitVec.getLsbD_or, halert, Bool.false_or]
  split <;> simp_all

theorem Answers.held_flags {code : Byte} {status : Status} {v : Word32} (h : Answers t code status v) :
    t.port.held.flags = responseFlags t := by
  obtain ⟨-, -, hheld⟩ := h
  rw [hheld]

theorem OnlyPort.trans {u : State} (hst : OnlyPort s t) (htu : OnlyPort t u) : OnlyPort s u := by
  unfold OnlyPort at hst htu ⊢
  rw [htu, hst]

theorem exec_frameOpen (s : State) : exec .frameOpen s = execFrameOpen s := rfl

/-- The port after FRAME_OPEN in an idle port (R162). -/
def openedPort (p : Port) : Port := ⟨.openFrame, [], some p.held, p.held⟩

theorem openPort_of_idle {p : Port} (h : p.phase = .idle) : openPort p = openedPort p := by
  simp only [openPort, h, openedPort]

theorem listening_openedPort (hs : Listening s) : Listening { s with port := openedPort s.port } := by
  obtain ⟨hhigh, -⟩ := hs
  exact ⟨hhigh, nofun⟩

/-- A change of the port is nothing that R91, R94 and R99 read. -/
theorem happening_port (p : State → Port) (h : s.resetN = .high) :
    happening s (fun s => { s with port := p s }) = .next { s with port := p s } := by
  have hfull : noteTableFull s { s with port := p s } = { s with port := p s } :=
    noteTableFull_elsewhere rfl rfl rfl rfl rfl
  have hchoice : follow s { s with port := p s } = { s with port := p s } := follow_elsewhere rfl
  rw [happening_high s h, noted, hfull, hchoice]

theorem exec_frameOpen_of_idle (hs : Listening s) (h : s.port.phase = .idle) :
    exec .frameOpen s = .next { s with port := openedPort s.port } := by
  obtain ⟨hhigh, -⟩ := hs
  rw [exec_frameOpen, execFrameOpen, happening_port _ hhigh, openPort_of_idle h]

/-- Settles O40: NOP in any state, and NOP at the end of a frame that opens in an idle port. -/
theorem nopAnswersOk : Obligations.NopAnswersOk := by
  intro o f v s hs
  refine ⟨?_, fun hidle => ?_⟩
  · obtain ⟨t, ht, hport, hans⟩ := exec_nop_answers o f v hs
    have hflags := hans.held_flags
    refine ⟨t, ht, hport, hans, ?_, ?_⟩
    · rw [hflags, responseFlags_bit_zero, alertN_eq_low_iff]
    · rw [hflags, responseFlags_bit_one]
  · have hopened : Listening { s with port := openedPort s.port } := listening_openedPort hs
    obtain ⟨u, hu, hport, hans⟩ := exec_nop_answers o f v hopened
    have hfirst : OnlyPort s { s with port := openedPort s.port } := rfl
    exact ⟨_, u, exec_frameOpen_of_idle hs hidle, hfirst, rfl, hu, hfirst.trans hport, hans⟩

end Sys2Proof.Machine
end

section
/-! READ_FIELD (R169): each block's items as the catalogue of 11 section 11.5 lists them, then the layouts of the value
words (R165) and the statement on both. -/

namespace Sys2Proof.Machine

/-! ### Runs of items -/

/-- The answer to the reading of an item of the catalogue: its value, and EMPTY where it is absent at present. -/
def itemAnswer : Option Word32 → Answer
  | some w => answer w
  | none => refusal .empty

/-- The answer to the reading of place `i` of a run of items. -/
def runAnswer (items : List (Option Word32)) (i : Nat) : Answer :=
  (items[i]?).elim (refusal .badField) itemAnswer

theorem runAnswer_of_getElem? {items : List (Option Word32)} {i : Nat} {x : Option Word32}
    (h : items[i]? = some x) : runAnswer items i = itemAnswer x := by
  simp [runAnswer, h]

theorem runAnswer_of_length_le {items : List (Option Word32)} {i : Nat} (h : items.length ≤ i) :
    runAnswer items i = refusal .badField := by
  simp [runAnswer, h]

/-- The reader of a block answers the items of the runs, and BAD-FIELD at every field outside them. -/
structure ReadsRuns (read : Nat → Answer) (runs : List (Nat × List (Option Word32))) : Prop where
  inside : ∀ run ∈ runs, ∀ i, i < run.2.length → read (run.1 + i) = runAnswer run.2 i
  outside : ∀ f, (∀ run ∈ runs, f < run.1 ∨ run.1 + run.2.length ≤ f) → read f = refusal .badField

theorem ReadsRuns.single {read : Nat → Answer} {items : List (Option Word32)}
    (h : ∀ i, read i = runAnswer items i) : ReadsRuns read [(0, items)] := by
  refine ⟨?_, fun f hf => ?_⟩
  · simp [h]
  · rw [h]
    exact runAnswer_of_length_le (by simpa using hf)

/-! ### The items of a block of numbered registers -/

/-- The items of a vector, one per field from 0. -/
theorem readVector_eq {A : Type} {n : Nat} (v : Vector A n) (g : A → Word32) (i : Nat) :
    (if h : i < n then answer (g v[i]) else refusal .badField) =
      runAnswer (v.toList.map fun x => some (g x)) i := by
  split
  · next h => simp [runAnswer, itemAnswer, h]
  · next h => exact (runAnswer_of_length_le (by simpa using h)).symm

theorem toList_eq_map_finRange {A : Type} {n : Nat} (v : Vector A n) :
    v.toList = (List.finRange n).map fun i => v[i] := by
  apply List.ext_getElem <;> simp

theorem readVector_eq_finRange {A : Type} {n : Nat} (v : Vector A n) (g : A → Word32) (i : Nat) :
    (if h : i < n then answer (g v[i]) else refusal .badField) =
      runAnswer ((List.finRange n).map fun k => some (g v[k])) i := by
  rw [readVector_eq, toList_eq_map_finRange, List.map_map]
  rfl

/-! ### Contracts and classes -/

theorem readContract_eq (k : Contract) (i : Nat) : readContract k i = runAnswer (contractItems k) i := by
  by_cases h : i < 14
  · interval_cases i <;> rfl
  · rw [runAnswer_of_length_le (not_lt.1 h)]
    exact dif_neg h

theorem runAnswer_emptyItems {n i : Nat} (h : i < n) : runAnswer (emptyItems n) i = refusal .empty := by
  simp [runAnswer, emptyItems, h, itemAnswer]

@[simp] theorem length_contractItems (k : Contract) : (contractItems k).length = 14 := rfl

@[simp] theorem length_classItems (k : ClassRec) : (classItems k).length = 8 := rfl

/-- The `n` items of a thing that may be absent, and they with it: the pending contract, the views (R20, R137, R141). -/
def optionalItems {T : Type} (n : Nat) (items : T → List (Option Word32)) (thing : Option T) : List (Option Word32) :=
  thing.elim (emptyItems n) items

theorem length_optionalItems {T : Type} {n : Nat} {items : T → List (Option Word32)}
    (h : ∀ x, (items x).length = n) (thing : Option T) : (optionalItems n items thing).length = n := by
  cases thing with
  | none => exact List.length_replicate
  | some x => exact h x

theorem readClass_staging (k : ClassRec) {i : Nat} (h : i < 14) :
    readClass k i = runAnswer (contractItems k.staging) i := by
  unfold readClass
  rw [if_pos h, readContract_eq]

theorem readClass_pending (k : ClassRec) {i : Nat} (h : i < 14) :
    readClass k (16 + i) = runAnswer (optionalItems 14 contractItems k.waiting) i := by
  unfold readClass
  rw [if_neg (by omega), if_pos (by omega), Nat.add_sub_cancel_left]
  cases k.waiting with
  | none => exact (runAnswer_emptyItems h).symm
  | some c => exact readContract_eq c i

theorem readClass_active (k : ClassRec) {i : Nat} (h : i < 14) :
    readClass k (32 + i) = runAnswer (contractItems k.active) i := by
  unfold readClass
  rw [if_neg (by omega), if_neg (by omega), if_pos (by omega), Nat.add_sub_cancel_left, readContract_eq]

theorem readClass_state (k : ClassRec) {i : Nat} (h : i < 8) :
    readClass k (48 + i) = runAnswer (classItems k) i := by
  interval_cases i <;> rfl

theorem readClass_outside (k : ClassRec) {f : Nat} (hstaging : 14 ≤ f) (hpending : f < 16 ∨ 30 ≤ f)
    (hactive : f < 32 ∨ 46 ≤ f) (hstate : f < 48 ∨ 56 ≤ f) : readClass k f = refusal .badField := by
  unfold readClass
  rw [if_neg (by omega), if_neg (by omega), if_neg (by omega)]
  split
  case h_9 => rfl
  all_goals omega

theorem readClass_reads (k : ClassRec) : ReadsRuns (readClass k)
    [(0x00, contractItems k.staging), (0x10, optionalItems 14 contractItems k.waiting), (0x20, contractItems k.active),
      (0x30, classItems k)] := by
  have hpending := length_optionalItems length_contractItems k.waiting
  refine ⟨fun run hrun i hi => ?_, fun f hf => ?_⟩
  · simp only [List.mem_cons, List.not_mem_nil, or_false] at hrun
    obtain rfl | rfl | rfl | rfl := hrun
    · simpa using readClass_staging k hi
    · exact readClass_pending k (hpending ▸ hi)
    · exact readClass_active k hi
    · exact readClass_state k hi
  · obtain ⟨hstaging, hwaiting, hactive, hstate⟩ :
        14 ≤ f ∧ (f < 16 ∨ 30 ≤ f) ∧ (f < 32 ∨ 46 ≤ f) ∧ (f < 48 ∨ 56 ≤ f) := by simpa [hpending] using hf
    exact readClass_outside k hstaging hwaiting hactive hstate

/-! ### Filters -/

theorem readFilter_eq (fl : Filter) (i : Nat) : readFilter fl i = runAnswer (filterItems fl) i := by
  match i with
  | 0 | 1 | 2 | 3 => rfl
  | _ + 4 => rfl

/-! ### The snapshot view and the capture view -/

theorem length_snapshotItems (v : Snapshot) : (snapshotItems v).length = 27 := by
  simp [snapshotItems]

/-- From item 11h the view has the eight bins and then the two maxima. -/
theorem snapshotItems_from_bins (v : Snapshot) (j : Nat) : (snapshotItems v)[j + 17]? =
    ((v.stats.bins.toList.map word ++ [word v.stats.holdMax, word v.stats.streamMax]).map some)[j]? := by
  simp [snapshotItems]

theorem snapshotItem_bin (v : Snapshot) {j : Nat} (h : j < 8) :
    snapshotItem v (j + 17) = word v.stats.bins[j] := by
  have hitem : snapshotItem v (j + 17) = word (v.stats.bins.toList.getD j 0) := by
    interval_cases j <;> rfl
  simp [hitem, h]

theorem snapshotItems_at (v : Snapshot) {i : Nat} (h : i < 27) :
    (snapshotItems v)[i]? = some (some (snapshotItem v i)) := by
  rcases Nat.lt_or_ge i 17 with hhead | htail
  · interval_cases i <;> rfl
  · obtain ⟨j, rfl⟩ := Nat.exists_eq_add_of_le' htail
    rw [snapshotItems_from_bins]
    rcases (by omega : j < 8 ∨ j = 8 ∨ j = 9) with hbin | rfl | rfl
    · rw [snapshotItem_bin v hbin]
      simp [List.getElem?_append, hbin]
    · simp [snapshotItem]
    · simp [snapshotItem]

theorem readSnapshot_eq (v : Option Snapshot) (i : Nat) :
    readSnapshot v i = runAnswer (optionalItems 27 snapshotItems v) i := by
  unfold readSnapshot
  split
  · next h =>
    cases v with
    | none => exact (runAnswer_emptyItems h).symm
    | some x => exact (runAnswer_of_getElem? (snapshotItems_at x h)).symm
  · next h =>
    refine (runAnswer_of_length_le ?_).symm
    rw [length_optionalItems length_snapshotItems]
    exact not_lt.1 h

theorem captureItems_at (r : Capture) {i : Nat} (h : i < 13) : (captureItems r)[i]? = some (captureItem r i) := by
  interval_cases i <;> rfl

theorem readCaptureView_eq (v : Option Capture) {i : Nat} (h : i < 13) :
    readCaptureView v i = runAnswer (optionalItems 13 captureItems v) i := by
  cases v with
  | none => exact (runAnswer_emptyItems h).symm
  | some r =>
    refine Eq.trans ?_ (runAnswer_of_getElem? (captureItems_at r h)).symm
    simp only [readCaptureView]
    cases captureItem r i <;> rfl

theorem readCapture_outside (s : State) {f : Nat} (hview : 13 ≤ f) (hlog : f < 16 ∨ 18 ≤ f) :
    readCapture s f = refusal .badField := by
  unfold readCapture
  rw [if_neg (by omega)]
  split
  case h_3 => rfl
  all_goals omega

theorem length_captureItems (r : Capture) : (captureItems r).length = 13 := rfl

theorem readCapture_view (s : State) {i : Nat} (h : i < 13) :
    readCapture s i = runAnswer (optionalItems 13 captureItems s.captureView) i := by
  unfold readCapture
  rw [if_pos h, readCaptureView_eq _ h]

theorem readCapture_log (s : State) {i : Nat} (h : i < 2) :
    readCapture s (16 + i) = runAnswer [some (word s.log.length), some (word s.lost)] i := by
  interval_cases i <;> rfl

theorem readCapture_reads (s : State) : ReadsRuns (readCapture s)
    [(0x00, optionalItems 13 captureItems s.captureView), (0x10, [some (word s.log.length), some (word s.lost)])] := by
  have hlength := length_optionalItems length_captureItems s.captureView
  refine ⟨fun run hrun i hi => ?_, fun f hf => ?_⟩
  · simp only [List.mem_cons, List.not_mem_nil, or_false] at hrun
    obtain rfl | rfl := hrun
    · simpa using readCapture_view s (hlength ▸ hi)
    · exact readCapture_log s hi
  · obtain ⟨hview, hlog⟩ : 13 ≤ f ∧ (f < 16 ∨ 18 ≤ f) := by simpa [hlength] using hf
    exact readCapture_outside s hview hlog

/-! ### The event unit -/

theorem readEventUnit_enable (s : State) {i : Nat} (h : i < 11) :
    readEventUnit s i = runAnswer (s.enables.toList.map fun b => some (boolWord b)) i := by
  rw [← readVector_eq, readEventUnit, dif_pos h, dif_pos h]

theorem readEventUnit_summary (s : State) {i : Nat} (h : i < 1) :
    readEventUnit s (16 + i) = runAnswer [some (eventSummary s)] i := by
  interval_cases i
  rfl

theorem readEventUnit_outside (s : State) {f : Nat} (henables : 11 ≤ f) (hsummary : f < 16 ∨ 17 ≤ f) :
    readEventUnit s f = refusal .badField := by
  rw [readEventUnit, dif_neg (not_lt.2 henables), if_neg (by omega)]

theorem readEventUnit_reads (s : State) : ReadsRuns (readEventUnit s)
    [(0x00, s.enables.toList.map fun b => some (boolWord b)), (0x10, [some (eventSummary s)])] := by
  refine ⟨fun run hrun i hi => ?_, fun f hf => ?_⟩
  · simp only [List.mem_cons, List.not_mem_nil, or_false] at hrun
    obtain rfl | rfl := hrun
    · simpa using readEventUnit_enable s (by simpa using hi)
    · exact readEventUnit_summary s hi
  · obtain ⟨henables, hsummary⟩ : 11 ≤ f ∧ (f < 16 ∨ 17 ≤ f) := by simpa using hf
    exact readEventUnit_outside s henables hsummary

/-! ### The catalogue -/

theorem classObject_of_lt {o : Byte} (h : o.toNat < 16) : classObject o = some ⟨o.toNat, h⟩ := dif_pos h

theorem classObject_of_ge {o : Byte} (h : ¬ o.toNat < 16) : classObject o = none := dif_neg h

theorem readItem_of_class (s : State) {o : Byte} (h : o.toNat < 16) (f : Byte) :
    readItem s o f = readClass (s.cls ⟨o.toNat, h⟩) f.toNat := by
  rw [readItem, classObject_of_lt h]

theorem readItem_tickGenerator (s : State) {o : Byte} (h : o.toNat = 0x30) (f : Byte) :
    readItem s o f = runAnswer [some (word (tickClocks s.tickDiv)), some s.timebase] f.toNat := by
  have hnone : classObject o = none := classObject_of_ge (by omega)
  simp only [readItem, hnone, h]
  generalize f.toNat = i
  match i with
  | 0 | 1 => rfl
  | _ + 2 => rfl

theorem readItem_identity (s : State) {o : Byte} (h : o.toNat = 0x3F) (f : Byte) :
    readItem s o f = runAnswer [some 0x416, some 1] f.toNat := by
  have hnone : classObject o = none := classObject_of_ge (by omega)
  simp only [readItem, hnone, h]
  generalize f.toNat = i
  match i with
  | 0 | 1 => rfl
  | _ + 2 => rfl

/-- READ_FIELD answers each object from the runs that the catalogue lists for it. -/
theorem exists_reader {s : State} {o : Byte} {runs : List (Nat × List (Option Word32))}
    (h : catalogue s o = some runs) :
    ∃ read, (∀ f : Byte, readItem s o f = read f.toNat) ∧ ReadsRuns read runs := by
  unfold catalogue at h
  split at h
  case isTrue ho =>
    obtain rfl : runs = [(0x00, contractItems (s.cls ⟨o.toNat, ho⟩).staging),
        (0x10, optionalItems 14 contractItems (s.cls ⟨o.toNat, ho⟩).waiting),
        (0x20, contractItems (s.cls ⟨o.toNat, ho⟩).active), (0x30, classItems (s.cls ⟨o.toNat, ho⟩))] :=
      (Option.some.inj h).symm.trans (by cases (s.cls ⟨o.toNat, ho⟩).waiting <;> rfl)
    exact ⟨_, readItem_of_class s ho, readClass_reads _⟩
  case isFalse ho =>
    have hnone := classObject_of_ge ho
    split at h
    case h_11 => cases h
    case h_6 he =>
      obtain rfl : runs = [(0, optionalItems 27 snapshotItems s.snapshot)] :=
        (Option.some.inj h).symm.trans (by cases s.snapshot <;> rfl)
      exact ⟨readSnapshot s.snapshot, fun f => by simp only [readItem, hnone, he], .single (readSnapshot_eq _)⟩
    case h_7 he =>
      obtain rfl : runs = [(0x00, optionalItems 13 captureItems s.captureView),
          (0x10, [some (word s.log.length), some (word s.lost)])] :=
        (Option.some.inj h).symm.trans (by cases s.captureView <;> rfl)
      exact ⟨readCapture s, fun f => by simp only [readItem, hnone, he], readCapture_reads s⟩
    all_goals cases h
    case h_2 he => exact ⟨_, readItem_tickGenerator s he, .single fun _ => rfl⟩
    case h_10 he => exact ⟨_, readItem_identity s he, .single fun _ => rfl⟩
    case' h_1 he => have hread := ReadsRuns.single (readVector_eq_finRange s.classMap mapEntryWord)
    case' h_3 he => have hread := ReadsRuns.single (readFilter_eq s.frame)
    case' h_4 he => have hread := ReadsRuns.single (readFilter_eq s.gate)
    case' h_5 he => have hread := ReadsRuns.single (readVector_eq s.edges word)
    case' h_8 he => have hread := readEventUnit_reads s
    case' h_9 he => have hread := ReadsRuns.single (readVector_eq_finRange s.entries entryWord)
    all_goals exact ⟨_, fun f => by simp only [readItem, hnone, he], hread⟩

theorem readItem_of_no_catalogue {s : State} {o : Byte} (h : catalogue s o = none) (f : Byte) :
    readItem s o f = refusal .badObject := by
  unfold catalogue at h
  split at h
  · cases h
  · next ho =>
    unfold readItem
    rw [classObject_of_ge ho]
    split at h
    case h_11 => simp [*]
    all_goals cases h

/-! ### READ_FIELD -/

theorem exec_readField (o f : Byte) (v : Word32) (s : State) :
    exec (.readField o f v) s = execReadField o f v s := rfl

theorem reads_of_readItem {o f : Byte} {s : State} {a : Answer} (hs : Listening s) (h : readItem s o f = a) :
    Reads s o f a.status a.value := by
  intro v
  have hrun : runReadField o f s = (s, a) := by rw [runReadField, h]
  rw [exec_readField]
  exact manage_only s hs hrun (noteTableFull_self s) rfl

section
variable {o f : Byte} {s : State} {runs : List (Nat × List (Option Word32))}

theorem readItem_of_item {run : Nat × List (Option Word32)} {i : Nat} {x : Option Word32}
    (h : catalogue s o = some runs) (hrun : run ∈ runs) (hf : f.toNat = run.1 + i) (hx : run.2[i]? = some x) :
    readItem s o f = itemAnswer x := by
  obtain ⟨read, hread, hruns⟩ := exists_reader h
  obtain ⟨hi, -⟩ := List.getElem?_eq_some_iff.1 hx
  rw [hread, hf, hruns.inside run hrun i hi, runAnswer_of_getElem? hx]

theorem readItem_of_no_item (h : catalogue s o = some runs)
    (hout : ∀ run ∈ runs, f.toNat < run.1 ∨ run.1 + run.2.length ≤ f.toNat) :
    readItem s o f = refusal .badField := by
  obtain ⟨read, hread, hruns⟩ := exists_reader h
  rw [hread, hruns.outside f.toNat hout]

end

/-! ### Layouts of the value words (R165) -/

section
variable (x : BitVec 16) (y z : Byte)

theorem extract_first_byte : (x ++ y ++ z : Word32).extractLsb' 0 8 = z :=
  BitVec.extractLsb'_append_eq_right

theorem extract_second_byte : (x ++ y ++ z : Word32).extractLsb' 8 8 = y :=
  (BitVec.extractLsb'_append_eq_of_le (by decide)).trans BitVec.extractLsb'_append_eq_right

/-- What stands above the second byte is read from the upper half alone. -/
theorem extract_upper {start len : Nat} :
    (x ++ y ++ z : Word32).extractLsb' (start + 16) len = x.extractLsb' start len := by
  rw [BitVec.extractLsb'_append_eq_of_le (by omega), BitVec.extractLsb'_append_eq_of_le (by omega)]
  rfl

theorem getLsbD_upper {i : Nat} : (x ++ y ++ z : Word32).getLsbD (i + 16) = x.getLsbD i := by
  rw [BitVec.getLsbD_append, if_neg (by omega), BitVec.getLsbD_append, if_neg (by omega)]
  rfl

end

/-- A class number fits in a byte. -/
theorem toNat_ofClass (n : ClassId) : (BitVec.ofNat 8 n.val).toNat = n.val := by
  rw [BitVec.toNat_ofNat]
  omega

theorem mapEntryWord_first_byte (e : MapEntry) : (mapEntryWord e).extractLsb' 0 8 = mapByte e.read :=
  extract_first_byte ..

theorem mapEntryWord_second_byte (e : MapEntry) : (mapEntryWord e).extractLsb' 8 8 = mapByte e.write :=
  extract_second_byte ..

theorem mapEntryWord_upper (e : MapEntry) : (mapEntryWord e).extractLsb' 16 16 = 0 :=
  extract_upper 0#16 _ _ (start := 0)

/-- The two marks of an entry, in the upper half of its word. -/
def entryMarks (f : Flight) : BitVec 16 := (flagBit f.owed 16 ||| flagBit f.lateConsumed 17).extractLsb' 16 16

theorem entryMarks_layout (f : Flight) : (entryMarks f).getLsbD 0 = f.owed ∧
    (entryMarks f).getLsbD 1 = f.lateConsumed ∧ (entryMarks f).extractLsb' 2 14 = 0 := by
  unfold entryMarks
  cases f.owed <;> cases f.lateConsumed <;> decide

theorem entryWord_some (f : Flight) :
    entryWord (some f) = entryMarks f ++ classByte f.cls ++ BitVec.ofNat 8 (phaseCode f.phase) := rfl

theorem toNat_phaseByte (p : Phase) : (BitVec.ofNat 8 (phaseCode p)).toNat = phaseCode p := by
  cases p <;> rfl

/-! ### The event summary (R151) -/

theorem getLsbD_flagBit_of_lt (set : Bool) {n : Nat} (hn : n < 32) (i : Nat) :
    (flagBit set n).getLsbD i = true ↔ set = true ∧ n = i := by
  cases set with
  | false => simp [flagBit]
  | true =>
    have hbit : flagBit true n = BitVec.twoPow 32 n := rfl
    simp [hbit, BitVec.getLsbD_twoPow, hn]

theorem getLsbD_joined_over {K : Type} (kinds : List K) (bit : K → Word32) (w : Word32) (i : Nat) :
    ((kinds.map bit).foldr (· ||| ·) w).getLsbD i = true ↔
      (∃ kind ∈ kinds, (bit kind).getLsbD i = true) ∨ w.getLsbD i = true := by
  induction kinds with
  | nil => simp
  | cons kind kinds ih => simp [ih, or_assoc]

theorem anyClassFlag_iff (f : ClassFlags) : anyClassFlag f = true ↔ ∃ kind, classFlag f kind = true := by
  simp [anyClassFlag]

theorem anyGlobalFlag_iff (f : GlobalFlags) : anyGlobalFlag f = true ↔ ∃ kind, globalFlag f kind = true := by
  simp [anyGlobalFlag]

theorem getLsbD_eventSummary (s : State) (i : Nat) : (eventSummary s).getLsbD i = true ↔
    (∃ n : ClassId, anyClassFlag (s.cls n).flags = true ∧ n.val = i) ∨
      (anyGlobalFlag s.gflags = true ∧ 16 = i) := by
  have hclass (n : ClassId) : (flagBit (anyClassFlag (s.cls n).flags) n.val).getLsbD i = true ↔
      anyClassFlag (s.cls n).flags = true ∧ n.val = i := getLsbD_flagBit_of_lt _ (by omega) i
  rw [eventSummary, getLsbD_joined_over, getLsbD_flagBit_of_lt _ (by decide)]
  simp only [List.mem_finRange, true_and, hclass]

theorem eventSummary_class (s : State) (n : ClassId) :
    (eventSummary s).getLsbD n.val = true ↔ ∃ kind, classFlag (s.cls n).flags kind = true := by
  rw [getLsbD_eventSummary, ← anyClassFlag_iff]
  have hn : 16 ≠ n.val := by omega
  simp [hn, Fin.val_inj]

theorem eventSummary_global (s : State) :
    (eventSummary s).getLsbD 16 = true ↔ ∃ kind, globalFlag s.gflags kind = true := by
  rw [getLsbD_eventSummary, ← anyGlobalFlag_iff]
  have hn (n : ClassId) : n.val ≠ 16 := by omega
  simp [hn]

theorem eventSummary_upper (s : State) : (eventSummary s).extractLsb' 17 15 = 0 := by
  ext i hi
  have hbit : (eventSummary s).getLsbD (17 + i) = false := by
    rw [Bool.eq_false_iff, ne_eq, getLsbD_eventSummary]
    omega
  simp [hbit]

/-! ### The statement -/

/-- The answer to every reading, by what the catalogue lists for the object and for the field. -/
theorem readField_catalogue {o f : Byte} {s : State} (hs : Listening s) :
    (catalogue s o = none → Reads s o f .badObject 0) ∧
    ∀ runs, catalogue s o = some runs →
      (∀ run ∈ runs, ∀ i, f.toNat = run.1 + i →
        (∀ w, run.2[i]? = some (some w) → Reads s o f .ok w) ∧
        (run.2[i]? = some none → Reads s o f .empty 0)) ∧
      ((∀ run ∈ runs, f.toNat < run.1 ∨ run.1 + run.2.length ≤ f.toNat) → Reads s o f .badField 0) := by
  refine ⟨fun h => reads_of_readItem hs (readItem_of_no_catalogue h f), fun runs h => ⟨?_, fun hout => ?_⟩⟩
  · intro run hrun i hf
    exact ⟨fun w hw => reads_of_readItem hs (readItem_of_item h hrun hf hw),
      fun hempty => reads_of_readItem hs (readItem_of_item h hrun hf hempty)⟩
  · exact reads_of_readItem hs (readItem_of_no_item h hout)

/-- Settles O43: the readings by the catalogue, then the layouts of the words; the codes are those of the model. -/
theorem readFieldCatalogue : Obligations.ReadFieldCatalogue := by
  refine ⟨fun o f s hs => readField_catalogue hs, fun e n => ?_,
    fun s => ⟨eventSummary_class s, eventSummary_global s, eventSummary_upper s⟩, rfl, fun f n => ?_,
    rfl, rfl, rfl, rfl, rfl, rfl, rfl, rfl, rfl, rfl, rfl, rfl⟩
  · rw [mapEntryWord_first_byte, mapEntryWord_second_byte]
    exact ⟨fun h => h ▸ toNat_ofClass n, fun h => h ▸ rfl, fun h => h ▸ toNat_ofClass n, fun h => h ▸ rfl,
      mapEntryWord_upper e⟩
  · obtain ⟨howed, hlate, hrest⟩ := entryMarks_layout f
    rw [entryWord_some, extract_first_byte, extract_second_byte]
    refine ⟨?_, fun h => h ▸ toNat_ofClass n, fun h => h ▸ rfl, (getLsbD_upper ..).trans howed,
      (getLsbD_upper ..).trans hlate, (extract_upper ..).trans hrest⟩
    rw [toNat_phaseByte]
    cases f.phase <;> rfl

end Sys2Proof.Machine
end

section
/-! A property is kept by an elementary change of `Kept` that changes only what the property does not read. Each group of
elementary changes has an erasure of all that it changes; a property that does not see the erasure is kept by the group. -/

namespace Sys2Proof.Machine

/-! ### Erasures -/

/-- The property does not see what `erase` forgets. -/
def Unread (erase : State → State) (P : State → Prop) : Prop := ∀ s, P (erase s) ↔ P s

theorem Unread.keeps {erase : State → State} {P : State → Prop} (h : Unread erase P) {s t : State} (hs : P s)
    (e : erase t = erase s) : P t :=
  (h t).1 (e ▸ (h s).2 hs)

/-- The state without its classes. -/
def eraseClasses (s : State) : State := { s with classes := pinResetState.classes }

/-- The state without its classes, the timebase, the divider of the interval in progress and the filters. -/
def erasePeriods (s : State) : State :=
  { eraseClasses s with timebase := 0, intervalDiv := .d1, frame := resetFilter, gate := resetFilter }

/-- The state without what an admission changes. -/
def eraseAdmission (s : State) : State :=
  { eraseClasses s with up := .free, through := none, refused := none, down := none }

/-- The state without what the responses change, the refused slot, the completion notices and the classes apart. -/
def eraseResponses (s : State) : State :=
  { s with
    down := none
    entries := pinResetState.entries
    discard := none
    standing := none
    upResp := .free }

/-- The state without the settings, the filters, the views, the log, the flags, the quiesce state and the port. -/
def eraseOthers (s : State) : State :=
  { pinResetState with
    timebase := s.timebase
    classMap := s.classMap
    classes := s.classes
    up := s.up
    through := s.through
    refused := s.refused
    rrPos := s.rrPos
    altMark := s.altMark
    down := s.down
    entries := s.entries
    discard := s.discard
    standing := s.standing
    upResp := s.upResp
    pending := s.pending }

/-! ### What the changes of the in-flight table leave -/

section
variable (s : State) (k : EntryIndex)

theorem consumeLate_cases : consumeLate k s = s ∨ ∃ f, s.entry k = some f ∧ f.phase = .abandoned ∧
    consumeLate k s = s.setEntry k (if f.owed then some { f with lateConsumed := true } else none) := by
  unfold consumeLate
  split
  · next f he =>
    split
    · next hp => exact .inr ⟨f, he, hp, rfl⟩
    · exact .inl rfl
  · exact .inl rfl

theorem clearOwed_cases : clearOwed k s = s ∨ ∃ f, s.entry k = some f ∧ f.phase = .abandoned ∧
    clearOwed k s = s.setEntry k (if f.lateConsumed then none else some { f with owed := false }) := by
  unfold clearOwed
  split
  · next f he =>
    split
    · next hp => exact .inr ⟨f, he, hp, rfl⟩
    · exact .inl rfl
  · exact .inl rfl

/-- The end of an entry's life changes its entry and its class's outstanding count (R112). -/
theorem freeEntry_cases (f : Flight) : freeEntry k f s = s.setEntry k none ∨
    ∃ c, f.cls = some c ∧ freeEntry k f s = lowerOutstanding c (s.setEntry k none) := by
  unfold freeEntry
  split
  · exact .inl rfl
  · next c hc => exact .inr ⟨c, hc, rfl⟩

theorem loseEntry_cases (f : Flight) : loseEntry k f s = s.setEntry k (some (abandonedFlight f)) ∨
    ∃ c, f.cls = some c ∧ loseEntry k f s = lowerOutstanding c (s.setEntry k (some (abandonedFlight f))) := by
  unfold loseEntry
  split
  · exact .inl rfl
  · next c hc => exact .inr ⟨c, hc, rfl⟩

end

/-! ### The groups of elementary changes -/

section
variable {P : State → Prop}

theorem KeptClasses.of_unread (h : Unread eraseClasses P) (ht : ∀ s f g l, P s → P (tickOnce f g l s)) :
    KeptClasses P where
  takeTick _ _ _ hs := h.keeps hs rfl
  tick := ht
  owe _ _ hs := h.keeps hs rfl
  takeCopy _ _ _ _ _ hs := h.keeps hs rfl
  notices _ _ _ hs := h.keeps hs rfl
  commit _ _ _ hs := h.keeps hs rfl
  discard _ _ hs := h.keeps hs rfl
  setRepeat _ _ _ hs := h.keeps hs rfl
  start _ _ _ _ hs := h.keeps hs rfl
  stop _ _ hs := h.keeps hs rfl
  staging _ _ _ _ _ hs := h.keeps hs rfl
  flagAt _ _ _ hs := h.keeps hs rfl
  clearFlags _ _ hs := h.keeps hs rfl
  live _ _ _ hs := h.keeps hs rfl
  overrun _ _ _ hs := h.keeps hs rfl

theorem tickOnce_erased (f g : Level) (l : List ClassId) (s : State) :
    erasePeriods (tickOnce f g l s) = erasePeriods s := by
  simp only [erasePeriods, eraseClasses, tickOnce, State.mapCls]

theorem KeptClasses.of_periods_unread (h : Unread erasePeriods P) : KeptClasses P :=
  .of_unread (fun s => ((h (eraseClasses s)).symm.trans (h s) : P (eraseClasses s) ↔ P s))
    fun s f g l hs => h.keeps hs (tickOnce_erased f g l s)

theorem storeBeat_erased (place : Place) (d : Data) (s : State) :
    eraseAdmission (storeBeat place d s) = eraseAdmission s := by
  cases place <;> rfl

theorem KeptAdmission.of_unread (h : Unread eraseAdmission P) : KeptAdmission P where
  offered _ _ _ hs := h.keeps hs rfl
  bypass _ _ _ _ _ _ hs := h.keeps hs rfl
  unregulated _ _ _ _ _ _ _ _ _ hs := h.keeps hs rfl
  charged _ _ _ _ _ _ _ _ _ _ hs := h.keeps hs rfl
  marked _ _ _ _ _ _ _ _ _ hs := h.keeps hs rfl
  refuse _ _ _ _ _ _ hs := h.keeps hs rfl
  join _ _ _ _ _ _ _ hs := h.keeps hs rfl
  stall _ _ _ _ _ _ hs := h.keeps hs rfl
  data s place _ d _ hs := h.keeps hs (storeBeat_erased place d s)

/-- The fall of an outstanding count keeps the property. -/
def KeptByLower (P : State → Prop) : Prop := ∀ s c, P s → P (lowerOutstanding c s)

/-- The end of the refused slot's response keeps the property. -/
def KeptByRefusedDone (P : State → Prop) : Prop := ∀ s, P s → P { s with refused := none }

/-- The completion notices keep the property. -/
def KeptByNotice (P : State → Prop) : Prop := ∀ s c f st, P s → P (completionNotice c f st s)

section
variable (h : Unread eraseResponses P) (hl : KeptByLower P)
include h

theorem Unread.consumeLate {s : State} (k : EntryIndex) (hs : P s) : P (consumeLate k s) := by
  rcases consumeLate_cases s k with e | ⟨f, -, -, e⟩ <;> rw [e]
  · exact hs
  · exact h.keeps hs rfl

theorem Unread.clearOwed {s : State} (k : EntryIndex) (hs : P s) : P (clearOwed k s) := by
  rcases clearOwed_cases s k with e | ⟨f, -, -, e⟩ <;> rw [e]
  · exact hs
  · exact h.keeps hs rfl

include hl

theorem Unread.freeEntry {s : State} (k : EntryIndex) (f : Flight) (hs : P s) : P (freeEntry k f s) := by
  rcases freeEntry_cases s k f with e | ⟨c, -, e⟩ <;> rw [e]
  · exact h.keeps hs rfl
  · exact hl _ c (h.keeps hs rfl)

theorem Unread.loseEntry {s : State} (k : EntryIndex) (f : Flight) (hs : P s) : P (loseEntry k f s) := by
  rcases loseEntry_cases s k f with e | ⟨c, -, e⟩ <;> rw [e]
  · exact h.keeps hs rfl
  · exact hl _ c (h.keeps hs rfl)

theorem KeptResponses.of_unread (hr : KeptByRefusedDone P) (hn : KeptByNotice P) : KeptResponses P where
  taken _ hs := h.keeps hs rfl
  sent _ _ _ hs := h.keeps hs rfl
  generate _ _ _ _ _ hs := h.keeps hs rfl
  generated _ _ _ _ _ _ hs := h.keeps hs rfl
  refusedDone s _ _ _ hs := h.keeps (hr s hs) rfl
  timeoutDone _ k _ _ _ hs := h.clearOwed k (h.keeps hs rfl)
  heldTaken _ _ _ _ _ _ hs := h.keeps hs rfl
  release _ _ _ _ _ _ hs := h.keeps hs rfl
  stand _ _ _ _ _ _ hs := h.keeps hs rfl
  unstand _ hs := h.keeps hs rfl
  firstBeat _ _ _ _ _ _ _ _ _ _ hs := h.keeps hs rfl
  firstEnds _ k f _ _ _ _ _ _ hs := h.freeEntry hl k f (h.keeps hs rfl)
  nextBeat _ _ _ _ _ _ _ _ _ hs := h.keeps hs rfl
  nextEnds _ k _ _ _ f _ _ _ _ _ _ hs := h.freeEntry hl k f (h.keeps hs rfl)
  nextEndsAlone _ _ _ _ _ _ _ _ _ _ hs := h.keeps hs rfl
  notice := hn
  lose _ k f _ _ hs := h.loseEntry hl k f hs
  discarding _ _ _ hs := h.keeps hs rfl
  discarded _ hs := h.keeps hs rfl
  consume _ k _ hs := h.consumeLate k hs
  consumeRest _ k _ hs := h.consumeLate k (h.keeps hs rfl)

end

theorem setFilter_erased (line : Line) (f : Filter) (s : State) : eraseOthers (s.setFilter line f) = eraseOthers s := by
  cases line <;> rfl

theorem raiseGlobal_erased (kind : GlobalKind) (s : State) : eraseOthers (raiseGlobal kind s) = eraseOthers s := by
  cases kind <;> rfl

theorem KeptOthers.of_unread (h : Unread eraseOthers P) (hr : ∀ s, P s → P (regulatorReset s)) : KeptOthers P where
  raise s kind hs := h.keeps hs (raiseGlobal_erased kind s)
  port _ _ hs := h.keeps hs rfl
  sample s line _ hs := h.keeps hs (setFilter_erased line _ s)
  filterSetting s line _ _ f _ hs := h.keeps hs (setFilter_erased line f s)
  tickDiv _ _ hs := h.keeps hs rfl
  edge _ _ _ _ _ _ hs := h.keeps hs rfl
  lostZero _ hs := h.keeps hs rfl
  enables _ _ hs := h.keeps hs rfl
  snapshot _ _ hs := h.keeps hs rfl
  pop _ _ _ _ hs := h.keeps hs rfl
  clearGlobal _ hs := h.keeps hs rfl
  quiesceState _ _ _ hs := h.keeps hs rfl
  regulator := hr
  releaseReset _ _ _ hs := h.keeps hs rfl

end

end Sys2Proof.Machine
end

section
/-! The sizes of the hold store, the log, the edges and the filters (R57, R88, R133, R140), kept by every step. -/

namespace Sys2Proof.Machine

/-! ### The state but for what the period engine and the tick change -/

/-- The hold queues and the outstanding counts of the classes are those of `s`, and so is all that neither the period
engine nor the contract store changes. -/
structure SameTraffic (s t : State) : Prop where
  queue : ∀ c, (t.cls c).queue = (s.cls c).queue
  outstanding : ∀ c, (t.cls c).outstanding = (s.cls c).outstanding
  rest : erasePeriods t = erasePeriods s

theorem sameTraffic_setCls {s : State} {n : ClassId} {k : ClassRec} (hq : k.queue = (s.cls n).queue)
    (ho : k.outstanding = (s.cls n).outstanding) : SameTraffic s (s.setCls n k) where
  queue := forall_setCls (Q := fun c l => l.queue = (s.cls c).queue) (fun _ => rfl) hq
  outstanding := forall_setCls (Q := fun c l => l.outstanding = (s.cls c).outstanding) (fun _ => rfl) ho
  rest := rfl

theorem KeepsTraffic.setCls {s : State} {n : ClassId} {k : ClassRec} (h : KeepsTraffic (s.cls n) k) :
    SameTraffic s (s.setCls n k) :=
  sameTraffic_setCls h.queue h.outstanding

theorem sameTraffic_mapCls {s : State} {f : ClassId → ClassRec → ClassRec} (h : ∀ c, KeepsTraffic (s.cls c) (f c (s.cls c))) :
    SameTraffic s (s.mapCls f) where
  queue c := by rw [State.cls_mapCls, (h c).queue]
  outstanding c := by rw [State.cls_mapCls, (h c).outstanding]
  rest := rfl

theorem sameTraffic_tickOnce (f g : Level) (l : List ClassId) (s : State) : SameTraffic s (tickOnce f g l s) :=
  have h := sameTraffic_mapCls (s := s) fun c => tickDelivered_keepsTraffic (l.contains c) (s.cls c)
  ⟨h.queue, h.outstanding, tickOnce_erased f g l s⟩

/-- A property of the traffic is kept by the period engine and the contract store. -/
theorem KeptClasses.of_traffic {P : State → Prop} (h : ∀ {s t}, P s → SameTraffic s t → P t) : KeptClasses P where
  takeTick _ _ _ hs := h hs (takeOwedTick_keepsTraffic _ _).setCls
  tick s f g l hs := h hs (sameTraffic_tickOnce f g l s)
  owe _ _ hs := h hs (sameTraffic_mapCls fun _ => oweCopy_keepsTraffic _ _)
  takeCopy _ _ _ _ _ hs := h hs (takeOwedCopy_keepsTraffic _ _ _ _).setCls
  notices _ _ _ hs := h hs (sameTraffic_mapCls fun _ => forwardNotice_keepsTraffic _ _ _)
  commit _ _ _ hs := h hs (commitClass_keepsTraffic _).setCls
  discard _ _ hs := h hs (sameTraffic_setCls rfl rfl)
  setRepeat _ _ _ hs := h hs (sameTraffic_setCls rfl rfl)
  start _ _ _ _ hs := h hs (startClass_keepsTraffic _ _).setCls
  stop _ _ hs := h hs (stopClass_keepsTraffic _).setCls
  staging _ _ _ _ _ hs := h hs (sameTraffic_setCls rfl rfl)
  flagAt _ _ _ hs := h hs (raiseAt_keepsTraffic _ _).setCls
  clearFlags _ _ hs := h hs (sameTraffic_setCls rfl rfl)
  live _ _ _ hs := h hs (sameTraffic_setCls rfl rfl)
  overrun _ _ _ hs := h hs (setOverrun_keepsTraffic _).setCls

theorem sameTraffic_regulatorReset_queue (s : State) (c : ClassId) :
    ((regulatorReset s).cls c).queue = (s.cls c).queue ∧
      ((regulatorReset s).cls c).outstanding = (s.cls c).outstanding := by
  have h : (regulatorReset s).cls c = (s.mapCls fun _ k => regulatorResetClass k).cls c := rfl
  rw [h, State.cls_mapCls]
  exact ⟨rfl, rfl⟩

/-- A completion notice leaves the traffic. -/
theorem completionNotice_traffic (c : ClassId) (f : Flight) (st : RespStatus) (s : State) (d : ClassId) :
    ((completionNotice c f st s).cls d).queue = (s.cls d).queue ∧
      ((completionNotice c f st s).cls d).outstanding = (s.cls d).outstanding := by
  have hn := sameTraffic_setCls (s := s) (n := c)
    (k := { s.cls c with live := noticeStats s.edges f st s.timebase (s.cls c).live }) rfl rfl
  rcases completionNotice_cases s c f st with e | ⟨-, e⟩ | ⟨-, e⟩ <;> rw [e]
  · exact ⟨hn.queue d, hn.outstanding d⟩
  · have hr := (raiseAt_keepsTraffic .capture ((noticed c f st s).cls c)).setCls
    exact ⟨(hr.queue d).trans (hn.queue d), (hr.outstanding d).trans (hn.outstanding d)⟩
  · rw [State.cls_raiseGlobal]
    exact ⟨hn.queue d, hn.outstanding d⟩

/-! ### The capture log (R140) -/

theorem LogFits.regulatorReset (s : State) : LogFits (regulatorReset s) :=
  ⟨Nat.zero_le _, Nat.zero_le _⟩

theorem keptByNotice_logFits : KeptByNotice LogFits := by
  rintro s c f st ⟨hlog, hlost⟩
  rcases completionNotice_cases s c f st with e | ⟨hroom, e⟩ | ⟨-, e⟩ <;> rw [e]
  · exact ⟨hlog, hlost⟩
  · refine ⟨?_, hlost⟩
    rw [State.setCls_log, List.length_append]
    exact hroom
  · rw [LogFits, State.raiseGlobal_log, State.raiseGlobal_lost]
    exact ⟨hlog, Nat.min_le_right _ _⟩

theorem keptOthers_logFits : KeptOthers LogFits where
  raise s kind h := by rwa [LogFits, State.raiseGlobal_log, State.raiseGlobal_lost]
  port _ _ h := h
  sample s line _ h := by rwa [LogFits, State.setFilter_log, State.setFilter_lost]
  filterSetting s line _ _ _ _ h := by rwa [LogFits, State.setFilter_log, State.setFilter_lost]
  tickDiv _ _ h := h
  edge _ _ _ _ _ _ h := h
  lostZero _ h := ⟨h.1, Nat.zero_le _⟩
  enables _ _ h := h
  snapshot _ _ h := h
  pop s r rest hl h := by
    refine ⟨?_, h.2⟩
    have hlen : (r :: rest).length ≤ Config.logRecords := hl ▸ h.1
    exact Nat.le_of_succ_le hlen
  clearGlobal _ h := h
  quiesceState _ _ _ h := h
  regulator s _ := LogFits.regulatorReset s
  releaseReset _ _ _ h := h

theorem kept_logFits : Kept LogFits where
  toKeptClasses := .of_periods_unread fun _ => Iff.rfl
  toKeptAdmission := .of_unread fun _ => Iff.rfl
  toKeptResponses := .of_unread (fun _ => Iff.rfl) (fun _ _ h => h) (fun _ h => h) keptByNotice_logFits
  toKeptOthers := keptOthers_logFits

theorem logFits_of_step {s t : State} (hs : LogFits s) (e : step s = .next t) : LogFits t :=
  kept_logFits.keptStep (fun _ _ h => h) (fun _ _ _ _ _ _ h => h) (fun _ _ _ _ _ _ _ _ _ h => h)
    (fun _ _ h => h) (fun _ => ⟨Nat.zero_le _, Nat.zero_le _⟩) hs e

/-! ### The histogram edges (R133, R134) -/

theorem edgeFits_iff (edges : Vector Nat 7) (k : Fin 7) (v : Nat) : edgeFits edges k v = true ↔
    ∀ j : Fin 7, (j.val + 1 = k.val → edges[j] < v) ∧ (k.val + 1 = j.val → v < edges[j]) := by
  simp only [edgeFits, List.all_eq_true, List.mem_finRange, true_imp_iff, Bool.and_eq_true, Bool.or_eq_true,
    Bool.not_eq_true', decide_eq_false_iff_not, decide_eq_true_eq, ← imp_iff_not_or]

theorem getElem_set_edge (edges : Vector Nat 7) (k j : Fin 7) (v : Nat) :
    (edges.set k.val v k.isLt)[j] = if j = k then v else edges[j] := by
  simp [Vector.getElem_set, Fin.ext_iff, eq_comm]

/-- An edge that fits between its neighbours fits among all edges, which ascend. -/
theorem EdgesLegal.set {s : State} (h : EdgesLegal s) {k : Fin 7} {v : Nat} (h1 : 1 ≤ v) (hmax : v ≤ Config.intervalMax)
    (hf : edgeFits s.edges k v = true) : EdgesLegal { s with edges := s.edges.set k.val v k.isLt } := by
  obtain ⟨hrange, hasc⟩ := h
  rw [edgeFits_iff] at hf
  have hbelow (i : Fin 7) (hi : i < k) : s.edges[i] < v := by
    let p : Fin 7 := ⟨k.val - 1, by omega⟩
    have hp : s.edges[p] < v := (hf p).1 (by simp only [p]; omega)
    have hip : i < p ∨ i = p := by simp only [p, Fin.lt_def, Fin.ext_iff]; omega
    rcases hip with hi | hi
    · exact (hasc i p hi).trans hp
    · exact hi ▸ hp
  have habove (j : Fin 7) (hj : k < j) : v < s.edges[j] := by
    let p : Fin 7 := ⟨k.val + 1, by omega⟩
    have hp : v < s.edges[p] := (hf p).2 rfl
    have hjp : p < j ∨ j = p := by simp only [p, Fin.lt_def, Fin.ext_iff]; omega
    rcases hjp with hj | hj
    · exact hp.trans (hasc p j hj)
    · exact hj ▸ hp
  refine ⟨fun i => ?_, fun i j hij => ?_⟩ <;> simp only [getElem_set_edge]
  · split
    · exact ⟨h1, hmax⟩
    · exact hrange i
  · split
    · next hi =>
      rw [if_neg (by omega)]
      exact habove j (hi ▸ hij)
    · split
      · next hj => exact hbelow i (hj ▸ hij)
      · exact hasc i j hij

theorem keptByNotice_edgesLegal : KeptByNotice EdgesLegal := by
  intro s c f st h
  rcases completionNotice_cases s c f st with e | ⟨-, e⟩ | ⟨-, e⟩ <;> rw [e]
  · exact h
  · exact h
  · simp only [EdgesLegal, State.raiseGlobal_edges]
    exact h

theorem keptOthers_edgesLegal : KeptOthers EdgesLegal where
  raise s kind h := by simpa only [EdgesLegal, State.raiseGlobal_edges] using h
  port _ _ h := h
  sample s line _ h := by simpa only [EdgesLegal, State.setFilter_edges] using h
  filterSetting s line _ _ _ _ h := by simpa only [EdgesLegal, State.setFilter_edges] using h
  tickDiv _ _ h := h
  edge _ _ _ h1 hmax hf h := h.set h1 hmax hf
  lostZero _ h := h
  enables _ _ h := h
  snapshot _ _ h := h
  pop _ _ _ _ h := h
  clearGlobal _ h := h
  quiesceState _ _ _ h := h
  regulator _ h := by simpa only [EdgesLegal, regulatorReset, State.mapCls] using h
  releaseReset _ _ _ h := h

theorem kept_edgesLegal : Kept EdgesLegal where
  toKeptClasses := .of_periods_unread fun _ => Iff.rfl
  toKeptAdmission := .of_unread fun _ => Iff.rfl
  toKeptResponses := .of_unread (fun _ => Iff.rfl) (fun _ _ h => h) (fun _ h => h) keptByNotice_edgesLegal
  toKeptOthers := keptOthers_edgesLegal

theorem edgesLegal_defaultEdges {s : State} (h : s.edges = defaultEdges) : EdgesLegal s := by
  rw [EdgesLegal, h]
  decide

theorem edgesLegal_of_step {s t : State} (hs : EdgesLegal s) (e : step s = .next t) : EdgesLegal t :=
  kept_edgesLegal.keptStep (fun _ _ h => h) (fun _ _ _ _ _ _ h => h) (fun _ _ _ _ _ _ _ _ _ h => h)
    (fun _ _ h => h) (fun _ => edgesLegal_defaultEdges rfl) hs e

/-! ### The filters (R57, R58) -/

theorem intervalTicks_pos {i : SampleInterval} (h : i ≠ .off) : 0 < intervalTicks i := by
  cases i <;> simp_all [intervalTicks]

section
variable {f : Filter} (h : FilterLegal f)
include h

theorem FilterLegal.takeSample : FilterLegal (takeSample f).1 := by
  obtain ⟨ha, hr, hoff, hc⟩ := h
  unfold Machine.takeSample
  split
  · exact ⟨ha, by dsimp only; omega, fun e => ⟨rfl, (hoff e).2⟩, hc⟩
  · split
    · exact ⟨ha, hr, hoff, hc⟩
    · next hi =>
      split
      · exact ⟨ha, by dsimp only; omega, fun e => absurd e hi, hc⟩
      · exact ⟨ha, by dsimp only; omega, fun e => absurd e hi, hc⟩

theorem FilterLegal.seen (raw : Level) : FilterLegal { f with raw := raw } :=
  ⟨h.agreement, h.run, h.off, h.count⟩

theorem FilterLegal.paid : FilterLegal { f with owed := false } :=
  ⟨h.agreement, h.run, fun e => ⟨(h.off e).1, (h.off e).2.1, rfl⟩, h.count⟩

theorem FilterLegal.countTick (hi : f.interval ≠ .off) : FilterLegal (countTick f).1 := by
  unfold Machine.countTick
  split
  · refine FilterLegal.takeSample ⟨h.agreement, h.run, fun e => absurd e hi, fun _ => intervalTicks_pos hi⟩
  · next hn =>
    have hc := h.count hi
    exact ⟨h.agreement, h.run, fun e => absurd e hi, fun _ => by dsimp only; omega⟩

theorem FilterLegal.filterTick (raw : Level) : FilterLegal (filterTick raw f) := by
  unfold Machine.filterTick
  dsimp only
  split
  · exact h.seen raw
  · next hi =>
    split
    · exact ⟨h.agreement, h.run, fun e => absurd e hi, h.count⟩
    · exact (h.seen raw).countTick hi

theorem FilterLegal.takeDueSample (raw : Level) : FilterLegal (takeDueSample raw f).1 := by
  unfold Machine.takeDueSample
  dsimp only
  split
  · exact (h.seen raw).paid.takeSample
  · next hi =>
    split
    · exact (h.seen raw).paid.countTick hi
    · exact h.seen raw

theorem FilterLegal.setFilterSetting {setting : FilterSetting} {v : Word32} {g : Filter}
    (e : setFilterSetting f setting v = some g) : FilterLegal g := by
  have ha := h.agreement
  cases setting with
  | sampleInterval =>
    obtain ⟨i, -, rfl⟩ := Option.map_eq_some_iff.1 e
    exact ⟨ha, by dsimp only; omega, fun hi => ⟨rfl, rfl, by simpa using fun _ => hi⟩, intervalTicks_pos⟩
  | agreementCount =>
    dsimp only [Machine.setFilterSetting] at e
    split at e <;> cases e
    next hv => exact ⟨hv, by dsimp only; omega, fun hi => ⟨rfl, rfl, (h.off hi).2.2⟩, intervalTicks_pos⟩

end

theorem FiltersLegal.setFilter {s : State} (h : FiltersLegal s) (line : Line) {f : Filter} (hf : FilterLegal f) :
    FiltersLegal (s.setFilter line f) := by
  cases line
  · exact ⟨hf, h.2⟩
  · exact ⟨h.1, hf⟩

theorem FiltersLegal.filter {s : State} (h : FiltersLegal s) (line : Line) : FilterLegal (s.filter line) := by
  cases line
  · exact h.1
  · exact h.2

theorem FiltersLegal.tickOnce {s : State} (h : FiltersLegal s) (f g : Level) (l : List ClassId) :
    FiltersLegal (tickOnce f g l s) :=
  ⟨h.1.filterTick f, h.2.filterTick g⟩

theorem keptByNotice_filtersLegal : KeptByNotice FiltersLegal := by
  intro s c f st h
  rcases completionNotice_cases s c f st with e | ⟨-, e⟩ | ⟨-, e⟩ <;> rw [e]
  · exact h
  · exact h
  · rw [FiltersLegal, State.raiseGlobal_frame, State.raiseGlobal_gate]
    exact h

theorem keptOthers_filtersLegal : KeptOthers FiltersLegal where
  raise s kind h := by rwa [FiltersLegal, State.raiseGlobal_frame, State.raiseGlobal_gate]
  port _ _ h := h
  sample _ line raw h := h.setFilter line ((h.filter line).takeDueSample raw)
  filterSetting _ line _ _ _ e h := h.setFilter line ((h.filter line).setFilterSetting e)
  tickDiv _ _ h := h
  edge _ _ _ _ _ _ h := h
  lostZero _ h := h
  enables _ _ h := h
  snapshot _ _ h := h
  pop _ _ _ _ h := h
  clearGlobal _ h := h
  quiesceState _ _ _ h := h
  regulator _ h := by simpa only [FiltersLegal, regulatorReset, State.mapCls] using h
  releaseReset _ _ _ h := h

theorem kept_filtersLegal : Kept FiltersLegal where
  toKeptClasses := .of_unread (fun _ => Iff.rfl) fun _ f g l h => h.tickOnce f g l
  toKeptAdmission := .of_unread fun _ => Iff.rfl
  toKeptResponses := .of_unread (fun _ => Iff.rfl) (fun _ _ h => h) (fun _ h => h) keptByNotice_filtersLegal
  toKeptOthers := keptOthers_filtersLegal

theorem filterLegal_resetFilter : FilterLegal resetFilter :=
  ⟨by decide, by decide, fun _ => ⟨rfl, rfl, rfl⟩, fun h => absurd rfl h⟩

theorem filtersLegal_of_step {s t : State} (hs : FiltersLegal s) (e : step s = .next t) : FiltersLegal t :=
  kept_filtersLegal.keptStep (fun _ _ h => h) (fun _ _ _ _ _ _ h => h) (fun _ _ _ _ _ _ _ _ _ h => h)
    (fun _ _ h => h) (fun _ => ⟨filterLegal_resetFilter, filterLegal_resetFilter⟩) hs e

/-! ### The hold store (R88) -/

theorem heldTotal_le {s t : State} (h : ∀ c, (t.cls c).queue.length ≤ (s.cls c).queue.length) :
    heldTotal t ≤ heldTotal s :=
  List.sum_le_sum fun c _ => h c

theorem HoldStoreFits.of_queues {s t : State} (h : HoldStoreFits s) (hq : ∀ c, (t.cls c).queue = (s.cls c).queue) :
    HoldStoreFits t :=
  (heldTotal_le fun c => by rw [hq c]).trans h

/-- A change of one class outside its queue leaves every queue. -/
theorem queue_setCls {s u : State} {n : ClassId} {k : ClassRec} (hu : u.classes = s.classes)
    (hk : k.queue = (s.cls n).queue) (c : ClassId) : ((u.setCls n k).cls c).queue = (s.cls c).queue :=
  forall_setCls (s := u) (Q := fun c l => l.queue = (s.cls c).queue) (fun c => by rw [State.cls, hu]; rfl) hk c

theorem length_changeLast (f : Accepted → Accepted) : ∀ l, (changeLast f l).length = l.length
  | [] => rfl
  | [_] => rfl
  | _ :: b :: l => congrArg (· + 1) (length_changeLast f (b :: l))

theorem heldTotal_storeBeat (place : Place) (d : Data) (s : State) : heldTotal (storeBeat place d s) = heldTotal s := by
  cases place with
  | held n =>
    have h := heldTotal_setCls s n { s.cls n with queue := changeLast (addData d) (s.cls n).queue }
    rw [length_changeLast] at h
    exact Nat.add_right_cancel h
  | _ => rfl

theorem heldTotal_joinQueue (n : ClassId) (r : Request) (s : State) : heldTotal (joinQueue n r s) = heldTotal s + 1 := by
  have h := heldTotal_setCls { s with up := afterHeader r (.held n) } n { s.cls n with
    queue := (s.cls n).queue ++ [acceptedRequest s r (some n) false r.urgency]
    live := { (s.cls n).live with requestsHeld := bump (s.cls n).live.requestsHeld 1 } }
  have hcls : ({ s with up := afterHeader r (.held n) } : State).cls n = s.cls n := rfl
  have htotal : heldTotal { s with up := afterHeader r (.held n) } = heldTotal s := rfl
  rw [hcls, htotal, List.length_append, List.length_singleton, Nat.add_comm (s.cls n).queue.length,
    ← Nat.add_assoc] at h
  exact Nat.add_right_cancel h

theorem HoldStoreFits.joinQueue {s : State} {n : ClassId} {r : Request} (h : canJoin s n = true) :
    HoldStoreFits (joinQueue n r s) := by
  simp only [canJoin, holdRoom, Bool.and_eq_true, decide_eq_true_eq] at h
  rw [HoldStoreFits, heldTotal_joinQueue]
  exact h.1

theorem keptAdmission_holdStoreFits : KeptAdmission HoldStoreFits where
  offered _ _ _ h := h
  bypass _ _ _ _ _ _ h := h
  unregulated _ _ _ _ _ _ _ _ _ h := h.of_queues (queue_setCls rfl rfl)
  charged _ _ _ _ _ _ _ _ _ _ h := h.of_queues (queue_setCls rfl rfl)
  marked _ _ _ _ _ _ _ _ _ h := h.of_queues (queue_setCls rfl rfl)
  refuse _ _ _ _ _ _ h := h.of_queues (queue_setCls rfl rfl)
  join _ _ _ _ _ _ hj _ := .joinQueue hj
  stall _ _ _ _ _ _ h := h
  data s place _ d _ h := (heldTotal_storeBeat place d s).trans_le h

theorem keptByLower_holdStoreFits : KeptByLower HoldStoreFits := fun _ _ h => h.of_queues (queue_setCls rfl rfl)

theorem kept_holdStoreFits : Kept HoldStoreFits where
  toKeptClasses := .of_traffic fun h ht => h.of_queues ht.queue
  toKeptAdmission := keptAdmission_holdStoreFits
  toKeptResponses := .of_unread (fun _ => Iff.rfl) keptByLower_holdStoreFits (fun _ h => h)
    fun s c f st h => h.of_queues fun d => (completionNotice_traffic c f st s d).1
  toKeptOthers := .of_unread (fun _ => Iff.rfl)
    fun s h => h.of_queues fun c => (sameTraffic_regulatorReset_queue s c).1

/-- A grant takes the head away from its queue. -/
theorem heldTotal_takeHead {s : State} {n : ClassId} {a : Accepted} {rest : List Accepted} (k : EntryIndex)
    (hq : (s.cls n).queue = a :: rest) : heldTotal (takeHead n k a rest s) ≤ heldTotal s := by
  have h := heldTotal_setCls s n (releaseHead a.charge rest (s.cls n))
  have he : heldTotal (takeHead n k a rest s) = heldTotal (s.setCls n (releaseHead a.charge rest (s.cls n))) := rfl
  have hr : (releaseHead a.charge rest (s.cls n)).queue = rest := rfl
  rw [hq, hr, List.length_cons] at h
  omega

theorem holdStoreFits_of_pinReset {s : State} (h : s.classes = pinResetState.classes) : HoldStoreFits s := by
  have hs : HoldStoreFits pinResetState := show heldTotal pinResetState ≤ 48 by decide
  exact hs.of_queues fun c => by rw [State.cls, h]; rfl

theorem holdStoreFits_of_step {s t : State} (hs : HoldStoreFits s) (e : step s = .next t) : HoldStoreFits t :=
  kept_holdStoreFits.keptStep (fun _ _ h => h) (fun _ _ _ _ _ _ h => h)
    (fun _ _ k _ _ _ _ hq _ h => (heldTotal_takeHead k hq).trans h) (fun _ _ h => h) (fun _ => holdStoreFits_of_pinReset rfl) hs e

/-- Settles O57: each of the four is kept by every elementary change, by the grants, by the class map and by the pin. -/
theorem sizesKept : Obligations.SizesKept := fun _ _ e =>
  ⟨fun h => holdStoreFits_of_step h e, fun h => logFits_of_step h e, fun h => edgesLegal_of_step h e,
    fun h => filtersLegal_of_step h e⟩

end Sys2Proof.Machine
end

section
/-! Every step keeps every class within its contracts' ranges, with the values that its state fixes (R14, R36, R37, R39,
R48, R49, R60, R61). The period engine first, one lemma per happening at a class, then the elementary changes. -/

namespace Sys2Proof.Machine

/-! ### Contracts in range (R14) -/

section
variable {c : Contract} (h : ContractLegal c)
include h

theorem ContractLegal.length_pos : 0 < c.length := by
  have := (fieldInRange_iff 1 _).1 (h 1)
  exact this.1

theorem ContractLegal.budget_le : c.budget ≤ 65535 := ((fieldInRange_iff 2 _).1 (h 2)).2

theorem ContractLegal.carryCap_le : c.carryCap ≤ 65535 := ((fieldInRange_iff 3 _).1 (h 3)).2

theorem ContractLegal.outLimit_le : c.outLimit ≤ 64 := ((fieldInRange_iff 4 _).1 (h 4)).2

theorem ContractLegal.setContractField {i : Fin 14} {v : Nat} (hv : fieldInRange i v = true) :
    ContractLegal (setContractField c i v) := by
  intro j
  by_cases hj : j = i
  · subst hj
    rwa [contractField_setContractField_same _ ((fieldInRange_iff j v).1 hv).2]
  · rw [contractField_setContractField_ne _ _ hj]
    exact h j

end

theorem contractLegal_defaultContract : ContractLegal defaultContract :=
  show ∀ i : Fin 14, fieldInRange i (contractField defaultContract i) = true by decide

/-! ### What the legality of a class reads -/

/-- The class without its traffic, its records and its settings. -/
def eraseRecords (k : ClassRec) : ClassRec :=
  { k with oneShot := false, tickOwed := false, outstanding := 0, queue := [], live := clearStats, flags := noClassFlags }

theorem classLegal_eraseRecords {n : ClassId} {k : ClassRec} : ClassLegal n (eraseRecords k) ↔ ClassLegal n k :=
  ⟨fun h => { h with }, fun h => { h with }⟩

theorem ClassLegal.of_erased {n : ClassId} {k l : ClassRec} (h : ClassLegal n k)
    (e : eraseRecords l = eraseRecords k) : ClassLegal n l :=
  classLegal_eraseRecords.1 (e ▸ classLegal_eraseRecords.2 h)

theorem eraseRecords_raiseAt (kind : ClassKind) (k : ClassRec) : eraseRecords (raiseAt kind k) = eraseRecords k := by
  cases kind <;> rfl

/-! ### Boundaries (R25, R48, R49) -/

theorem refilled_le (c : Contract) (leftover : Nat) : refilled c leftover ≤ c.budget + c.carryCap :=
  Nat.add_le_add_left (Nat.min_le_right _ _) _

theorem applyWaiting_eq (k : ClassRec) : applyWaiting k = { k with active := nextContract k, waiting := none } := by
  unfold applyWaiting nextContract
  cases k with
  | mk staging active waiting => cases waiting <;> rfl

section
variable {n : ClassId} {k : ClassRec} (h : ClassLegal n k)
include h

theorem ClassLegal.nextContract : ContractLegal (nextContract k) := by
  unfold Machine.nextContract
  cases hw : k.waiting with
  | none => exact h.active
  | some w => exact h.waiting w hw

theorem ClassLegal.nextReference : selfReference n (Machine.nextContract k) = false := by
  unfold Machine.nextContract
  cases hw : k.waiting with
  | none => exact h.notOwnReference
  | some w => exact h.waitingReference w hw

/-- The leftover of a period fits the carry-in (R36). -/
theorem ClassLegal.remaining_le : k.remaining ≤ 131070 := by
  have hb := h.remainingBound
  have h1 := h.active.budget_le
  have h2 := h.active.carryCap_le
  omega

/-- A class that begins anew under the contract that comes next: the state, the remaining budget and the carry-in are the
ones that its mode asks for. -/
theorem ClassLegal.begun {l : ClassRec} (hst : l.staging = k.staging) (hact : l.active = Machine.nextContract k)
    (hw : l.waiting = none) (he : l.elapsed = 0) (hov : l.overrun = false)
    (hzero : l.state = .stopped ∨ l.state = .armed ∨ l.state = .expired → l.remaining = 0)
    (hrem : l.remaining ≤ l.active.budget + l.active.carryCap)
    (hcarry : l.state ≠ .armed → l.carryIn = 0) (hmax : l.carryIn ≤ 131070)
    (harm : l.state = .armed → l.active.mode = .synced) (hsus : l.state = .suspended → l.active.mode = .gated)
    (hframe : l.frameOwed = true → ReceivesFrame l) (hgate : l.gateOwed = true → ReceivesGate l) : ClassLegal n l where
  staging := hst ▸ h.staging
  active := hact ▸ h.nextContract
  waiting _ e := by simp [hw] at e
  waitingState e := absurd hw e
  notOwnReference := hact ▸ h.nextReference
  waitingReference _ e := by simp [hw] at e
  remainingZero := hzero
  elapsedZero _ := he
  elapsedBelow := by rw [he, hact]; exact h.nextContract.length_pos
  remainingBound := hrem
  carryZero := hcarry
  carryBound := hmax
  armedMode := harm
  suspendedMode := hsus
  overrunClear _ := hov
  frameCopy := hframe
  gateCopy := hgate

/-- A refill leaves a class of the mode in the state that receives the line of the mode. -/
theorem ClassLegal.refills {state : ClassState} {flags : ClassFlags} (hs : state = .running ∨ state = .suspended)
    (hm : state = .suspended → (Machine.nextContract k).mode = .gated) :
    ClassLegal n { periodClosed k with
      state := state
      remaining := refilled (Machine.nextContract k) k.remaining
      carryIn := 0
      flags := flags } := by
  refine h.begun rfl rfl rfl rfl rfl ?_ (refilled_le _ _) (fun _ => rfl) (Nat.zero_le _) ?_ hm ?_ ?_
  · rcases hs with rfl | rfl <;> simp
  · rcases hs with rfl | rfl <;> simp
  · intro hf
    have hmode : (Machine.nextContract k).mode = .synced := by
      simp only [periodClosed, Bool.and_eq_true, decide_eq_true_eq] at hf
      exact hf.2
    refine ⟨hmode, .inr (hs.resolve_right fun e => ?_)⟩
    simp [hm e] at hmode
  · intro hf
    simp only [periodClosed, Bool.and_eq_true, decide_eq_true_eq] at hf
    exact ⟨hf.2, hs⟩

theorem ClassLegal.boundary (gate : Level) (early : Bool) : ClassLegal n (boundary gate early k) := by
  have hb := boundary_leaves gate early k
  cases ho : k.oneShot with
  | true =>
    rw [hb.expires ho]
    exact h.begun rfl rfl rfl rfl rfl (fun _ => rfl) (Nat.zero_le _) (fun _ => rfl) (Nat.zero_le _) nofun nofun nofun
      nofun
  | false =>
    cases hm : (Machine.nextContract k).mode with
    | timed =>
      rw [hb.goesOn ho (.inl hm)]
      exact h.refills (.inl rfl) nofun
    | counted =>
      rw [hb.goesOn ho (.inr hm)]
      exact h.refills (.inl rfl) nofun
    | gated =>
      by_cases hg : (k.active.mode = .gated ∧ k.active.polarity = (Machine.nextContract k).polarity) ∨
          Matches gate (Machine.nextContract k).polarity
      · rw [hb.gatedRuns ho hm hg]
        exact h.refills (.inl rfl) nofun
      · rw [not_or] at hg
        rw [hb.gatedWaits ho hm hg.1 hg.2]
        exact h.refills (.inr rfl) fun _ => hm
    | synced =>
      by_cases hg : early = true ∧ k.active.polarity = (Machine.nextContract k).polarity ∧
          k.active.syncEnd = (Machine.nextContract k).syncEnd
      · rw [hb.syncedRuns ho hm hg.1 hg.2.1 hg.2.2]
        exact h.refills (.inl rfl) nofun
      · rw [hb.syncedWaits ho hm hg]
        refine h.begun rfl rfl rfl rfl rfl (fun _ => rfl) (Nat.zero_le _) (fun e => absurd rfl e) h.remaining_le
          (fun _ => hm) nofun (fun _ => ⟨hm, .inl rfl⟩) fun hf => ?_
        simp [periodClosed, hm] at hf

/-! ### Ticks and reference forwards -/

theorem ClassLegal.elapse (hr : k.state = .running) (hc : k.elapsed + 1 ≠ k.active.length) :
    ClassLegal n { k with elapsed := k.elapsed + 1 } :=
  { h with
    elapsedZero := by simp [hr]
    elapsedBelow := by
      have := h.elapsedBelow
      dsimp only
      omega }

theorem ClassLegal.advance (gate : Level) (hr : k.state = .running) : ClassLegal n (advance gate k).1 := by
  unfold Machine.advance
  split
  · exact h.boundary gate false
  · next hc => exact h.elapse hr (by simpa [advanceCompletes] using hc)

theorem ClassLegal.takeTick (gate : Level) : ClassLegal n (takeTick gate k).1 := by
  unfold Machine.takeTick
  split
  · next ha =>
    simp only [tickAdvances, Bool.and_eq_true, decide_eq_true_eq] at ha
    exact h.advance gate ha.1
  · exact h

theorem ClassLegal.tickPaid : ClassLegal n { k with tickOwed := false } := h.of_erased rfl

theorem ClassLegal.takeOwedTick (gate : Level) : ClassLegal n (takeOwedTick gate k).1 := by
  unfold Machine.takeOwedTick
  split
  · exact h.tickPaid.takeTick gate
  · exact h

theorem ClassLegal.tickDelivered (later : Bool) : ClassLegal n (tickDelivered later k) := by
  unfold Machine.tickDelivered
  split
  · split
    · exact { h with }
    · next hl =>
      split
      · next ha =>
        have hc : k.elapsed + 1 ≠ k.active.length := by simp_all [advanceCompletes]
        simp only [tickAdvances, Bool.and_eq_true, decide_eq_true_eq] at ha
        exact h.elapse ha.1 hc
      · exact h
  · exact h

theorem ClassLegal.forwardNotice (gate : Level) (c : Option ClassId) : ClassLegal n (forwardNotice gate c k).1 := by
  unfold Machine.forwardNotice referenceNotice
  split
  · exact h
  · split
    · next hc => exact h.advance gate hc.1
    · exact h

/-! ### Edges and their copies (R41 to R47, R60, R61) -/

/-- The first qualifying edge of an ARMED class refills it (R41). -/
theorem ClassLegal.frameStarts (hm : k.active.mode = .synced) :
    ClassLegal n { k with state := .running, elapsed := 0, remaining := refill k.active k.carryIn, carryIn := 0 } :=
  { h with
    waitingState := fun _ => .inr (.inl rfl)
    remainingZero := by simp
    elapsedZero := by simp
    elapsedBelow := h.active.length_pos
    remainingBound := refilled_le _ _
    carryZero := fun _ => rfl
    carryBound := Nat.zero_le _
    armedMode := nofun
    suspendedMode := nofun
    overrunClear := by simp
    frameCopy := fun _ => ⟨hm, .inr rfl⟩
    gateCopy := fun hg => by
      have hr := (h.gateCopy hg).1
      simp [hm] at hr }

theorem ClassLegal.frameEdge (gate edge : Level) : ClassLegal n (frameEdge gate edge k).1 := by
  unfold Machine.frameEdge
  split
  · next hm _ =>
    split
    · exact h.frameStarts hm
    · exact h
  · split
    · exact h.boundary gate true
    · split
      · exact h.boundary gate false
      · exact h
  · exact h

/-- A GATED class goes from RUNNING to SUSPENDED and back with all that it has (R46, R47). -/
theorem ClassLegal.gateMoves {state : ClassState} (hm : k.active.mode = .gated)
    (hk : k.state = .running ∨ k.state = .suspended) (hs : state = .running ∨ state = .suspended) :
    ClassLegal n { k with state := state } :=
  { h with
    waitingState := fun _ => .inr hs
    remainingZero := by rcases hs with rfl | rfl <;> simp
    elapsedZero := by rcases hs with rfl | rfl <;> simp
    carryZero := fun _ => h.carryZero (by rcases hk with hk | hk <;> simp [hk])
    armedMode := by rcases hs with rfl | rfl <;> simp
    suspendedMode := fun _ => hm
    overrunClear := by rcases hs with rfl | rfl <;> simp
    frameCopy := fun hf => by
      have hr := (h.frameCopy hf).1
      simp [hm] at hr
    gateCopy := fun _ => ⟨hm, hs⟩ }

theorem ClassLegal.gateChange (level : Level) : ClassLegal n (gateChange level k).1 := by
  unfold Machine.gateChange
  split
  · next hm hs =>
    split
    · exact h
    · exact h.gateMoves hm (.inl hs) (.inr rfl)
  · next hm hs =>
    split
    · exact h.gateMoves hm (.inr hs) (.inl rfl)
    · exact h
  · exact h

theorem ClassLegal.framePaid : ClassLegal n { k with frameOwed := false } :=
  { h with frameCopy := fun e => absurd e Bool.false_ne_true }

theorem ClassLegal.gatePaid : ClassLegal n { k with gateOwed := false } :=
  { h with gateCopy := fun e => absurd e Bool.false_ne_true }

theorem ClassLegal.takeOwedCopy (line : Line) (gate level : Level) : ClassLegal n (takeOwedCopy line gate level k).1 := by
  unfold Machine.takeOwedCopy
  split
  · split
    · exact h.framePaid.frameEdge gate level
    · exact h
  · split
    · exact h.gatePaid.gateChange level
    · exact h

end

theorem receptive_frame_iff (k : ClassRec) : receptive .frame k = true ↔ ReceivesFrame k := by
  unfold receptive ReceivesFrame
  cases k.active.mode <;> cases k.state <;> simp

theorem receptive_gate_iff (k : ClassRec) : receptive .gate k = true ↔ ReceivesGate k := by
  unfold receptive ReceivesGate
  cases k.active.mode <;> cases k.state <;> simp

section
variable {n : ClassId} {k : ClassRec} (h : ClassLegal n k)
include h

theorem ClassLegal.oweCopy (line : Line) : ClassLegal n (oweCopy line k) := by
  unfold Machine.oweCopy
  split
  · next hr =>
    cases line
    · exact { h with frameCopy := fun _ => (receptive_frame_iff k).1 hr }
    · exact { h with gateCopy := fun _ => (receptive_gate_iff k).1 hr }
  · exact h

/-- A class that is STOPPED or EXPIRED owes no copy (R60, R61). -/
theorem ClassLegal.not_owed (hk : k.state = .stopped ∨ k.state = .expired) :
    k.frameOwed = false ∧ k.gateOwed = false := by
  refine ⟨Bool.eq_false_iff.2 fun hf => ?_, Bool.eq_false_iff.2 fun hg => ?_⟩
  · rcases (h.frameCopy hf).2 with e | e <;> simp [e] at hk
  · rcases (h.gateCopy hg).2 with e | e <;> simp [e] at hk

/-! ### COMMIT, START and STOP (R22, R23, R38, R39) -/

/-- A contract that comes to be active at rest (R22). -/
theorem ClassLegal.commits (hk : k.state = .stopped ∨ k.state = .expired)
    (hr : selfReference n k.staging = false) : ClassLegal n { k with active := k.staging } := by
  obtain ⟨hf, hg⟩ := h.not_owed hk
  have hz : k.state = .stopped ∨ k.state = .armed ∨ k.state = .expired := hk.imp_right .inr
  have he : k.elapsed = 0 := h.elapsedZero hz
  have hrem : k.remaining = 0 := h.remainingZero hz
  exact { h with
    active := h.staging
    notOwnReference := hr
    elapsedBelow := by rw [he]; exact h.staging.length_pos
    remainingBound := by rw [hrem]; exact Nat.zero_le _
    armedMode := fun e => by rcases hk with hk | hk <;> simp [hk] at e
    suspendedMode := fun e => by rcases hk with hk | hk <;> simp [hk] at e
    frameCopy := fun e => by simp [hf] at e
    gateCopy := fun e => by simp [hg] at e }

theorem ClassLegal.commitClass (hr : selfReference n k.staging = false) : ClassLegal n (commitClass k).1 := by
  unfold Machine.commitClass
  split
  · next hs => exact h.commits (.inl hs) hr
  · next hs => exact h.commits (.inr hs) hr
  · next h1 h2 =>
    exact { h with
      waiting := fun w e => Option.some.inj e ▸ h.staging
      waitingState := fun _ => by cases hs : k.state <;> simp_all
      waitingReference := fun w e => Option.some.inj e ▸ hr }

theorem ClassLegal.startClass (gate : Level) (hs : k.state = .stopped) : ClassLegal n (startClass gate k) := by
  obtain ⟨hf, hg⟩ := h.not_owed (.inl hs)
  have hw := h.waiting_eq_none (.inl hs)
  have hnext : Machine.nextContract k = k.active := by simp [Machine.nextContract, hw]
  have hcarry : k.carryIn = 0 := h.carryZero (by simp [hs])
  have hov : k.overrun = false := h.overrunClear (.inl hs)
  unfold Machine.startClass
  split
  case h_4 =>
    next hm =>
    refine h.begun rfl hnext.symm hw rfl hov ?_ (Nat.le_add_right _ _) (fun _ => hcarry) (h.carryBound) ?_
      (fun _ => hm) (fun e => by simp [hf] at e) fun e => by simp [hg] at e
    all_goals
      dsimp only
      split <;> simp
  case h_3 =>
    next hm =>
    exact h.begun rfl hnext.symm hw rfl hov (fun _ => rfl) (Nat.zero_le _) (fun _ => rfl) (Nat.zero_le _) (fun _ => hm)
      nofun (fun e => by simp [hf] at e) fun e => by simp [hg] at e
  all_goals
    exact h.begun rfl hnext.symm hw rfl hov (by simp) (Nat.le_add_right _ _) (fun _ => hcarry)
      (h.carryBound) nofun nofun (fun e => by simp [hf] at e) fun e => by simp [hg] at e

theorem ClassLegal.stopClass : ClassLegal n (stopClass k) := by
  unfold Machine.stopClass
  rw [applyWaiting_eq]
  exact h.begun rfl rfl rfl rfl rfl (fun _ => rfl) (Nat.zero_le _) (fun _ => rfl) (Nat.zero_le _) nofun nofun nofun
    nofun

/-! ### Charges and the overrun mark -/

theorem ClassLegal.charge (m : Nat) : ClassLegal n { k with remaining := k.remaining - m } :=
  { h with
    remainingZero := fun e => by rw [h.remainingZero e]; exact Nat.zero_sub m
    remainingBound := (Nat.sub_le _ _).trans h.remainingBound }

theorem ClassLegal.setOverrun (hr : regulated k.state = true) : ClassLegal n (setOverrun k) := by
  have hov : ClassLegal n { k with overrun := true } :=
    { h with overrunClear := fun e => by rcases e with e | e <;> simp_all [regulated] }
  unfold Machine.setOverrun
  split
  · exact h
  · exact hov.of_erased (eraseRecords_raiseAt .overrun _)

theorem ClassLegal.releaseHead (charge : Nat) (rest : List Accepted) : ClassLegal n (releaseHead charge rest k) :=
  (h.charge (headReduction k charge)).of_erased rfl

end

theorem classLegal_resetClass (n : ClassId) : ClassLegal n resetClass where
  staging := contractLegal_defaultContract
  active := contractLegal_defaultContract
  waiting := nofun
  waitingState e := absurd rfl e
  notOwnReference := rfl
  waitingReference := nofun
  remainingZero _ := rfl
  elapsedZero _ := rfl
  elapsedBelow := contractLegal_defaultContract.length_pos
  remainingBound := Nat.zero_le _
  carryZero _ := rfl
  carryBound := Nat.zero_le _
  armedMode := nofun
  suspendedMode := nofun
  overrunClear _ := rfl
  frameCopy := nofun
  gateCopy := nofun

end Sys2Proof.Machine
end

section
/-! Every elementary change keeps every class legal, and so does every step. -/

namespace Sys2Proof.Machine

section
variable {s t : State} (h : PeriodsLegal s)
include h

theorem PeriodsLegal.of_classes (e : t.classes = s.classes) : PeriodsLegal t := fun c => by
  rw [State.cls, e]
  exact h c

theorem PeriodsLegal.setCls {n : ClassId} {k : ClassRec} (hk : ClassLegal n k) : PeriodsLegal (s.setCls n k) :=
  forall_setCls h hk

/-- A change of one class outside what its legality reads. -/
theorem PeriodsLegal.setRecords {n : ClassId} {k : ClassRec} (e : eraseRecords k = eraseRecords (s.cls n)) :
    PeriodsLegal (s.setCls n k) :=
  h.setCls ((h n).of_erased e)

omit h in
theorem PeriodsLegal.mapCls {f : ClassId → ClassRec → ClassRec} (hf : ∀ c, ClassLegal c (f c (s.cls c))) :
    PeriodsLegal (s.mapCls f) := fun c => by
  rw [State.cls_mapCls]
  exact hf c

theorem PeriodsLegal.tickOnce (f g : Level) (l : List ClassId) : PeriodsLegal (tickOnce f g l s) :=
  have hm : PeriodsLegal (s.mapCls fun c k => Machine.tickDelivered (l.contains c) k) :=
    .mapCls fun c => (h c).tickDelivered (l.contains c)
  hm.of_classes rfl

omit h in
theorem PeriodsLegal.regulatorReset (s : State) : PeriodsLegal (regulatorReset s) :=
  have hm : PeriodsLegal (s.mapCls fun _ k => regulatorResetClass k) :=
    .mapCls fun c => (classLegal_resetClass c).of_erased rfl
  hm.of_classes rfl

theorem PeriodsLegal.completionNotice (c : ClassId) (f : Flight) (st : RespStatus) :
    PeriodsLegal (completionNotice c f st s) := by
  have hn : PeriodsLegal (noticed c f st s) := h.setRecords rfl
  rcases completionNotice_cases s c f st with e | ⟨-, e⟩ | ⟨-, e⟩ <;> rw [e]
  · exact hn
  · exact (hn.of_classes rfl).setRecords (eraseRecords_raiseAt .capture _)
  · exact hn.of_classes (State.raiseGlobal_classes _ _)

theorem PeriodsLegal.storeBeat (place : Place) (d : Data) : PeriodsLegal (storeBeat place d s) := by
  cases place with
  | held n => exact h.setRecords rfl
  | _ => exact h

end

theorem keptClasses_periodsLegal : KeptClasses PeriodsLegal where
  takeTick _ n g h := h.setCls ((h n).takeOwedTick g)
  tick _ f g l h := h.tickOnce f g l
  owe _ line h := .mapCls fun c => (h c).oweCopy line
  takeCopy _ n line g l h := h.setCls ((h n).takeOwedCopy line g l)
  notices _ g c h := .mapCls fun n => (h n).forwardNotice g c
  commit _ n hr h := h.setCls ((h n).commitClass hr)
  discard _ n h := h.setCls { h n with waiting := nofun, waitingState := fun e => absurd rfl e, waitingReference := nofun }
  setRepeat _ _ _ h := h.setRecords rfl
  start _ n g hs h := h.setCls ((h n).startClass g hs)
  stop _ n h := h.setCls (h n).stopClass
  staging _ n _ _ hv h := h.setCls { h n with staging := (h n).staging.setContractField hv }
  flagAt _ _ kind h := h.setRecords (eraseRecords_raiseAt kind _)
  clearFlags _ _ h := h.setRecords rfl
  live _ _ _ h := h.setRecords rfl
  overrun _ n hr h := h.setCls ((h n).setOverrun hr)

theorem keptAdmission_periodsLegal : KeptAdmission PeriodsLegal where
  offered _ _ _ h := h
  bypass _ _ _ _ _ _ h := h
  unregulated s _ _ _ _ _ _ _ _ h := PeriodsLegal.setRecords (s := enterThrough _ s) h rfl
  charged s r _ n _ _ _ _ _ _ h :=
    PeriodsLegal.setCls (s := enterThrough _ s) h (((h n).charge (chargeOf r)).of_erased rfl)
  marked s _ _ _ _ _ _ _ _ h := PeriodsLegal.setRecords (s := enterThrough _ s) h rfl
  refuse s _ _ _ _ _ h := PeriodsLegal.setRecords (s := { s with refused := _, up := _ }) h rfl
  join s _ _ _ _ _ _ h := PeriodsLegal.setRecords (s := { s with up := _ }) h rfl
  stall _ _ _ _ _ _ h := h
  data _ place _ d _ h := (h.storeBeat place d).of_classes rfl

theorem keptByLower_periodsLegal : KeptByLower PeriodsLegal := fun _ _ h => h.setRecords rfl

theorem kept_periodsLegal : Kept PeriodsLegal where
  toKeptClasses := keptClasses_periodsLegal
  toKeptAdmission := keptAdmission_periodsLegal
  toKeptResponses := .of_unread (fun _ => Iff.rfl) keptByLower_periodsLegal (fun _ h => h)
    fun _ c f st h => h.completionNotice c f st
  toKeptOthers := .of_unread (fun _ => Iff.rfl) fun s _ => .regulatorReset s

theorem keptByGrants_periodsLegal : KeptByGrants PeriodsLegal :=
  ⟨fun _ _ _ _ _ _ h => h.of_classes rfl,
    fun s n k a rest _ _ _ _ h =>
      (PeriodsLegal.setCls (s := forwardOut k { a with marked := false } s) h
        ((h n).releaseHead a.charge rest)).of_classes rfl⟩

theorem periodsLegal_of_resetClasses {s : State} (h : s.classes = pinResetState.classes) : PeriodsLegal s := fun c => by
  have hc : s.cls c = resetClass := by simp [State.cls, h, pinResetState]
  rw [hc]
  exact classLegal_resetClass c

/-- Settles O56. -/
theorem periodsLegalKept : Obligations.PeriodsLegalKept := fun _ _ e hs =>
  kept_periodsLegal.keptStep (fun _ _ h => h) keptByGrants_periodsLegal.1 keptByGrants_periodsLegal.2 (fun _ _ h => h)
    (fun _ => periodsLegal_of_resetClasses rfl) hs e

end Sys2Proof.Machine
end

section
/-! The outstanding counts (R80, R81): what each elementary change does to the requests of a class in the through slot and
in the in-flight table, and to its count. -/

namespace Sys2Proof.Machine

/-! ### The requests that a class has outstanding -/

/-- The request counts as one of class `c`. -/
def countsFor (c : ClassId) (x : Option ClassId) : Nat := if x = some c then 1 else 0

theorem countsFor_self (c : ClassId) : countsFor c (some c) = 1 := if_pos rfl

theorem countsFor_none (c : ClassId) : countsFor c none = 0 := if_neg nofun

theorem countsFor_ne {c d : ClassId} (h : d ≠ c) : countsFor c (some d) = 0 := if_neg fun e => h (Option.some.inj e)

theorem throughCount_none {s : State} (h : s.through = none) (c : ClassId) : throughCount s c = 0 := by
  simp only [throughCount, h]

theorem throughCount_some {s : State} {a : Accepted} (h : s.through = some a) (c : ClassId) :
    throughCount s c = countsFor c a.cls := by
  simp only [throughCount, h, countsFor]

theorem throughCount_congr {s t : State} (h : t.through = s.through) (c : ClassId) : throughCount t c = throughCount s c := by
  rw [throughCount, throughCount, h]

theorem liveOf_toNat {f : Flight} (h : f.phase ≠ .abandoned) (c : ClassId) :
    (liveOf c (some f)).toNat = countsFor c f.cls := by
  simp only [liveOf, h, decide_false, Bool.not_false, Bool.and_true, countsFor]
  split <;> simp_all

theorem liveOf_abandoned {f : Flight} (h : f.phase = .abandoned) (c : ClassId) : liveOf c (some f) = false := by
  simp [liveOf, h]

/-- An entry that becomes FREE or ABANDONED no longer counts for its class (R80). -/
theorem liveCount_retired {s : State} {k : EntryIndex} {f : Flight} {e : Option Flight} (hk : s.entry k = some f)
    (hf : f.phase ≠ .abandoned) {c : ClassId} (he : liveOf c e = false) :
    liveCount (s.setEntry k e) c + countsFor c f.cls = liveCount s c := by
  have h := liveCount_setEntry s k e c
  rwa [hk, liveOf_toNat hf, he, Bool.toNat_false, Nat.add_zero] at h

theorem liveCount_allocated {s : State} {k : EntryIndex} {f : Flight} (hk : s.entry k = none)
    (hf : f.phase ≠ .abandoned) (c : ClassId) :
    liveCount (s.setEntry k (some f)) c = liveCount s c + countsFor c f.cls := by
  have h := liveCount_setEntry s k (some f) c
  rwa [hk, liveOf_toNat hf] at h

theorem liveCount_alike {s : State} {k : EntryIndex} {e : Option Flight} {c : ClassId}
    (h : liveOf c e = liveOf c (s.entry k)) : liveCount (s.setEntry k e) c = liveCount s c := by
  have h' := liveCount_setEntry s k e c
  rw [h] at h'
  exact Nat.add_right_cancel h'

theorem entry_of_lowestFree {s : State} {k : EntryIndex} (h : lowestFree s = some k) : s.entry k = none := by
  simpa using List.find?_some h

/-- A completion notice leaves the through slot and the in-flight table. -/
theorem completionNotice_slots (c : ClassId) (f : Flight) (st : RespStatus) (s : State) :
    (completionNotice c f st s).through = s.through ∧ (completionNotice c f st s).entries = s.entries := by
  rcases completionNotice_cases s c f st with e | ⟨-, e⟩ | ⟨-, e⟩ <;> rw [e]
  · exact ⟨rfl, rfl⟩
  · exact ⟨rfl, rfl⟩
  · exact ⟨State.raiseGlobal_through _ _, State.raiseGlobal_entries _ _⟩

/-! ### The counts are exact (R80) -/

section
variable {s t : State} (h : OutstandingExact s)
include h

/-- A change of nothing that the counts and the queues are about. -/
theorem OutstandingExact.of_alike (hq : ∀ c, (t.cls c).queue = (s.cls c).queue)
    (ho : ∀ c, (t.cls c).outstanding = (s.cls c).outstanding) (ht : ∀ c, throughCount t c = throughCount s c)
    (hl : ∀ c, liveCount t c = liveCount s c) : OutstandingExact t := by
  obtain ⟨howned, hexact⟩ := h
  refine ⟨fun c a ha => howned c a (hq c ▸ ha), fun c => ?_⟩
  rw [ho, ht, hl]
  exact hexact c

theorem OutstandingExact.of_traffic (ht : SameTraffic s t) : OutstandingExact t := by
  have hthrough : t.through = s.through := (congrArg State.through ht.rest :)
  have hentries : t.entries = s.entries := (congrArg State.entries ht.rest :)
  exact h.of_alike ht.queue ht.outstanding (throughCount_congr hthrough) (liveCount_congr hentries)

/-- A class update that adds nothing to its queue, with a count that has moved with the requests of each class. -/
theorem OutstandingExact.moved {u : State} {n : ClassId} {k : ClassRec} (hu : u.classes = s.classes)
    (hk : ∀ a ∈ k.queue, a ∈ (s.cls n).queue)
    (hn : k.outstanding = throughCount (u.setCls n k) n + liveCount (u.setCls n k) n)
    (hd : ∀ d, d ≠ n → throughCount (u.setCls n k) d + liveCount (u.setCls n k) d = throughCount s d + liveCount s d) :
    OutstandingExact (u.setCls n k) := by
  obtain ⟨howned, hexact⟩ := h
  have hcls (c : ClassId) : u.cls c = s.cls c := by rw [State.cls, hu]; rfl
  have hq : ∀ c, ∀ a ∈ ((u.setCls n k).cls c).queue, a ∈ (s.cls c).queue :=
    forall_setCls (s := u) (Q := fun c l => ∀ a ∈ l.queue, a ∈ (s.cls c).queue) (fun c a ha => hcls c ▸ ha) hk
  refine ⟨fun c a ha => howned c a (hq c a ha), fun c => ?_⟩
  by_cases hc : c = n
  · subst hc
    rw [State.cls_setCls_same, hn]
  · rw [State.cls_setCls_ne _ _ hc, hcls, hexact c, hd c hc]

/-- A request of class `n` enters the empty through slot (R78). -/
theorem OutstandingExact.passes {n : ClassId} {a : Accepted} {k : ClassRec} (hs : s.through = none)
    (ha : a.cls = some n) (hq : k.queue = (s.cls n).queue) (ho : k.outstanding = (s.cls n).outstanding + 1) :
    OutstandingExact ((enterThrough a s).setCls n k) := by
  have hcount (d : ClassId) : throughCount ((enterThrough a s).setCls n k) d = countsFor d (some n) :=
    ha ▸ throughCount_some rfl d
  have hlive (d : ClassId) : liveCount ((enterThrough a s).setCls n k) d = liveCount s d := liveCount_congr rfl d
  refine h.moved rfl (fun _ hx => hq ▸ hx) ?_ fun d hd => ?_
  · rw [ho, h.2 n, throughCount_none hs, hcount, hlive, countsFor_self, Nat.zero_add, Nat.add_comm]
  · rw [hcount, hlive, throughCount_none hs, countsFor_ne (Ne.symm hd)]

/-- The end of the life of entry `k`: the count of its class falls with it (R80). -/
theorem OutstandingExact.retires {k : EntryIndex} {f : Flight} {e : Option Flight} (hk : s.entry k = some f)
    (hf : f.phase ≠ .abandoned) (he : ∀ c, liveOf c e = false) :
    (f.cls = none → OutstandingExact (s.setEntry k e)) ∧
      ∀ c, f.cls = some c → OutstandingExact (lowerOutstanding c (s.setEntry k e)) := by
  have hlive (d : ClassId) := liveCount_retired hk hf (he d)
  refine ⟨fun hc => h.of_alike (fun _ => rfl) (fun _ => rfl) (fun _ => rfl) fun d => ?_, fun c hc => ?_⟩
  · rw [← hlive d, hc, countsFor_none, Nat.add_zero]
  · refine h.moved rfl (fun _ hx => hx) ?_ fun d hd => ?_
    · have h1 := h.2 c
      rw [← hlive c, hc, countsFor_self, ← Nat.add_assoc] at h1
      exact Nat.sub_eq_of_eq_add h1
    · rw [← hlive d, hc, countsFor_ne (Ne.symm hd), Nat.add_zero]
      rfl

theorem OutstandingExact.freeEntry {k : EntryIndex} {f : Flight} (hk : s.entry k = some f) (hf : f.phase ≠ .abandoned) :
    OutstandingExact (freeEntry k f s) := by
  obtain ⟨hnone, hsome⟩ := h.retires (e := none) hk hf fun _ => rfl
  unfold Machine.freeEntry
  split
  · next hc => exact hnone hc
  · next c hc => exact hsome c hc

theorem OutstandingExact.loseEntry {k : EntryIndex} {f : Flight} (hk : s.entry k = some f) (hf : f.phase ≠ .abandoned) :
    OutstandingExact (loseEntry k f s) := by
  obtain ⟨hnone, hsome⟩ := h.retires (e := some (abandonedFlight f)) hk hf fun c => liveOf_abandoned rfl c
  unfold Machine.loseEntry
  split
  · next hc => exact hnone hc
  · next c hc => exact hsome c hc

/-- An ABANDONED entry counts for no class, whatever becomes of it. -/
theorem OutstandingExact.setAbandoned {k : EntryIndex} {f : Flight} {e : Option Flight} (hk : s.entry k = some f)
    (hf : f.phase = .abandoned) (he : ∀ c, liveOf c e = false) : OutstandingExact (s.setEntry k e) :=
  h.of_alike (fun _ => rfl) (fun _ => rfl) (fun _ => rfl) fun c =>
    liveCount_alike (by rw [hk, liveOf_abandoned hf, he])

theorem OutstandingExact.consumeLate (k : EntryIndex) : OutstandingExact (consumeLate k s) := by
  rcases consumeLate_cases s k with e | ⟨f, hk, hf, e⟩ <;> rw [e]
  · exact h
  · refine h.setAbandoned hk hf fun c => ?_
    split
    · exact liveOf_abandoned (f := { f with lateConsumed := true }) hf c
    · rfl

theorem OutstandingExact.clearOwed (k : EntryIndex) : OutstandingExact (clearOwed k s) := by
  rcases clearOwed_cases s k with e | ⟨f, hk, hf, e⟩ <;> rw [e]
  · exact h
  · refine h.setAbandoned hk hf fun c => ?_
    split
    · rfl
    · exact liveOf_abandoned (f := { f with owed := false }) hf c

/-- A request that joins a queue has the queue's class. -/
theorem OutstandingExact.joinQueue (n : ClassId) (r : Request) : OutstandingExact (joinQueue n r s) := by
  obtain ⟨howned, hexact⟩ := h
  refine ⟨?_, forall_setCls (s := { s with up := afterHeader r (.held n) })
    (Q := fun c l => l.outstanding = throughCount s c + liveCount s c) hexact (hexact n)⟩
  refine forall_setCls (s := { s with up := afterHeader r (.held n) })
    (Q := fun c l => ∀ a ∈ l.queue, a.cls = some c) howned fun a ha => ?_
  rcases List.mem_append.1 ha with ha | ha
  · exact howned n a ha
  · rw [List.mem_singleton.1 ha]
    rfl

omit h in
theorem cls_of_mem_changeLast {c : Option ClassId} {d : Data} :
    ∀ {l : List Accepted}, (∀ a ∈ l, a.cls = c) → ∀ a ∈ changeLast (addData d) l, a.cls = c
  | [], _, _, ha => by cases ha
  | [b], hl, a, ha => by
    rw [List.mem_singleton.1 ha]
    exact hl b (List.mem_singleton.2 rfl)
  | b :: b' :: l, hl, a, ha => by
    rcases List.mem_cons.1 ha with rfl | ha
    · exact hl a List.mem_cons_self
    · exact cls_of_mem_changeLast (fun x hx => hl x (List.mem_cons_of_mem _ hx)) a ha

theorem OutstandingExact.storeBeat (place : Place) (d : Data) : OutstandingExact (storeBeat place d s) := by
  cases place with
  | through =>
    refine h.of_alike (fun _ => rfl) (fun _ => rfl) (fun c => ?_) fun _ => rfl
    simp only [throughCount, Machine.storeBeat]
    cases s.through <;> rfl
  | held n =>
    obtain ⟨howned, hexact⟩ := h
    exact ⟨forall_setCls (Q := fun c l => ∀ a ∈ l.queue, a.cls = some c) howned (cls_of_mem_changeLast (howned n)),
      forall_setCls (Q := fun c l => l.outstanding = throughCount s c + liveCount s c) hexact (hexact n)⟩
  | _ => exact h

/-- The request leaves the through slot for an entry (R78, R107). -/
theorem OutstandingExact.takeThrough {k : EntryIndex} {a : Accepted} (ha : s.through = some a) (hk : s.entry k = none) :
    OutstandingExact (takeThrough k a s) := by
  have hlive (c : ClassId) := liveCount_allocated (f := flightOf s a) hk nofun c
  refine ⟨h.1, fun c => ?_⟩
  have hz : throughCount (Machine.takeThrough k a s) c = 0 := throughCount_none rfl c
  have hl : liveCount (Machine.takeThrough k a s) c = liveCount s c + countsFor c a.cls := hlive c
  have hx : ((Machine.takeThrough k a s).cls c).outstanding = (s.cls c).outstanding := rfl
  rw [hx, hz, hl, h.2 c, throughCount_some ha, Nat.zero_add, Nat.add_comm]

/-- The head of class `n` leaves its queue for an entry, and counts for its class from then on (R97). -/
theorem OutstandingExact.takeHead {n : ClassId} {k : EntryIndex} {a : Accepted} {rest : List Accepted}
    (hq : (s.cls n).queue = a :: rest) (hk : s.entry k = none) : OutstandingExact (takeHead n k a rest s) := by
  have ha : a.cls = some n := h.1 n a (by rw [hq]; exact List.mem_cons_self)
  have hlive (c : ClassId) : liveCount (forwardOut k { a with marked := false } s) c =
      liveCount s c + countsFor c (some n) :=
    ha ▸ liveCount_allocated (f := flightOf s { a with marked := false }) hk nofun c
  refine OutstandingExact.moved (u := forwardOut k { a with marked := false } s)
    (k := releaseHead a.charge rest (s.cls n)) h rfl (fun x hx => ?_) ?_ fun d hd => ?_
  · rw [hq]
    exact List.mem_cons_of_mem _ hx
  · have hn := h.2 n
    have hl := hlive n
    rw [countsFor_self] at hl
    exact (congrArg (· + 1) hn).trans (by rw [Nat.add_assoc, ← hl]; rfl)
  · have hl := hlive d
    rw [countsFor_ne (Ne.symm hd)] at hl
    exact congrArg (throughCount s d + ·) hl

end

/-! ### The elementary changes -/

theorem through_of_acceptance {s : State} (h : acceptance s = true) : s.through = none := by
  simp only [acceptance, Bool.and_eq_true, Option.isNone_iff_eq_none] at h
  exact h.1.1

theorem keptAdmission_outstandingExact : KeptAdmission OutstandingExact where
  offered _ _ _ h := h
  bypass _ _ _ _ _ ha h := by
    refine h.of_alike (fun _ => rfl) (fun _ => rfl) (fun c => ?_) fun _ => rfl
    rw [throughCount_none (through_of_acceptance ha)]
    exact (throughCount_some rfl c).trans (countsFor_none c)
  unregulated _ _ _ _ _ ha _ _ _ h := h.passes (through_of_acceptance ha) rfl rfl rfl
  charged _ _ _ _ _ ha _ _ _ _ h := h.passes (through_of_acceptance ha) rfl rfl rfl
  marked _ _ _ _ _ ha _ _ _ h := h.passes (through_of_acceptance ha) rfl rfl rfl
  refuse s r _ n _ _ h :=
    OutstandingExact.of_traffic (s := { s with refused := _, up := afterHeader r .refusedSlot }) h
      (sameTraffic_setCls rfl rfl)
  join _ r _ n _ _ _ h := h.joinQueue n r
  stall _ _ _ _ _ _ h := h
  data _ place _ d _ h := h.storeBeat place d

theorem keptResponses_outstandingExact : KeptResponses OutstandingExact where
  taken _ h := h
  sent _ _ _ h := h
  generate _ _ _ _ _ h := h
  generated _ _ _ _ _ _ h := h
  refusedDone _ _ _ _ h := h
  timeoutDone s k _ _ _ h := OutstandingExact.clearOwed (s := { s with upResp := .free }) h k
  heldTaken _ _ _ _ _ _ h := h
  release _ _ _ _ _ _ h := h
  stand _ _ _ _ _ _ h := h
  unstand _ h := h
  firstBeat s k f b st _ _ he hp _ h := by
    refine h.of_alike (fun _ => rfl) (fun _ => rfl) (fun _ => rfl) fun c => ?_
    refine liveCount_alike (s := holdBeat k b st false s) ?_
    have hk : (holdBeat k b st false s).entry k = some f := he
    simp [hk, liveOf, hp]
  firstEnds s k f b st _ _ he hp h :=
    OutstandingExact.freeEntry (s := holdBeat k b st true s) h he (by simp [hp])
  nextBeat _ _ _ _ _ _ _ _ _ h := h
  nextEnds s k _ _ _ f b st' _ _ he hp h :=
    OutstandingExact.freeEntry (s := holdBeat k b st' true s) h he (by simp [hp])
  nextEndsAlone _ _ _ _ _ _ _ _ _ _ h := h
  notice s c f st h := by
    have ht := completionNotice_traffic c f st s
    obtain ⟨hthrough, hentries⟩ := completionNotice_slots c f st s
    exact h.of_alike (fun d => (ht d).1) (fun d => (ht d).2) (throughCount_congr hthrough) (liveCount_congr hentries)
  lose _ _ _ he hp h := h.loseEntry he (by simp [hp])
  discarding _ _ _ h := h
  discarded _ h := h
  consume _ k _ h := h.consumeLate k
  consumeRest s k _ h := OutstandingExact.consumeLate (s := { s with discard := none }) h k

theorem OutstandingExact.regulatorReset {s : State} (h : OutstandingExact s) : OutstandingExact (regulatorReset s) := by
  have ht := sameTraffic_regulatorReset_queue s
  refine h.of_alike (fun c => (ht c).1) (fun c => (ht c).2) (throughCount_congr ?_) (liveCount_congr ?_) <;>
    simp only [Machine.regulatorReset, State.mapCls]

theorem kept_outstandingExact : Kept OutstandingExact where
  toKeptClasses := .of_traffic fun h ht => h.of_traffic ht
  toKeptAdmission := keptAdmission_outstandingExact
  toKeptResponses := keptResponses_outstandingExact
  toKeptOthers := .of_unread (fun _ => Iff.rfl) fun _ h => h.regulatorReset

theorem keptByGrants_outstandingExact : KeptByGrants OutstandingExact :=
  ⟨fun _ _ _ ha hk _ h => h.takeThrough ha (entry_of_lowestFree hk),
    fun _ _ _ _ _ _ hk hq _ h => h.takeHead hq (entry_of_lowestFree hk)⟩

theorem cls_of_resetClasses {s : State} (h : s.classes = pinResetState.classes) (c : ClassId) : s.cls c = resetClass := by
  simp [State.cls, h, pinResetState]

theorem outstandingExact_of_pinReset {s : State} (hc : s.classes = pinResetState.classes) (ht : s.through = none)
    (he : s.entries = pinResetState.entries) : OutstandingExact s := by
  have hentry (k : EntryIndex) : s.entry k = none := by simp [State.entry, he, pinResetState]
  refine ⟨fun c a ha => ?_, fun c => ?_⟩
  · rw [cls_of_resetClasses hc] at ha
    cases ha
  · rw [cls_of_resetClasses hc, throughCount_none ht, liveCount, List.countP_eq_zero.2]
    · rfl
    · intro k _
      simp [hentry, liveOf]

theorem outstandingExact_of_step {s t : State} (hs : OutstandingExact s) (e : step s = .next t) : OutstandingExact t :=
  kept_outstandingExact.keptStep (fun _ _ h => h) keptByGrants_outstandingExact.1 keptByGrants_outstandingExact.2
    (fun _ _ h => h) (fun _ => outstandingExact_of_pinReset rfl rfl rfl) hs e

/-! ### The counts are bounded (R81) -/

theorem KeptClasses.and {P Q : State → Prop} (hp : KeptClasses P) (hq : KeptClasses Q) :
    KeptClasses fun s => P s ∧ Q s where
  takeTick s n g := And.imp (hp.takeTick s n g) (hq.takeTick s n g)
  tick s f g l := And.imp (hp.tick s f g l) (hq.tick s f g l)
  owe s line := And.imp (hp.owe s line) (hq.owe s line)
  takeCopy s n line g l := And.imp (hp.takeCopy s n line g l) (hq.takeCopy s n line g l)
  notices s g c := And.imp (hp.notices s g c) (hq.notices s g c)
  commit s n h := And.imp (hp.commit s n h) (hq.commit s n h)
  discard s n := And.imp (hp.discard s n) (hq.discard s n)
  setRepeat s n b := And.imp (hp.setRepeat s n b) (hq.setRepeat s n b)
  start s n g h := And.imp (hp.start s n g h) (hq.start s n g h)
  stop s n := And.imp (hp.stop s n) (hq.stop s n)
  staging s n i v h := And.imp (hp.staging s n i v h) (hq.staging s n i v h)
  flagAt s n kind := And.imp (hp.flagAt s n kind) (hq.flagAt s n kind)
  clearFlags s n := And.imp (hp.clearFlags s n) (hq.clearFlags s n)
  live s n st := And.imp (hp.live s n st) (hq.live s n st)
  overrun s n h := And.imp (hp.overrun s n h) (hq.overrun s n h)

theorem OutstandingBounded.setCls {s u : State} {n : ClassId} {k : ClassRec} (h : OutstandingBounded s)
    (hu : u.classes = s.classes) (hk : k.outstanding ≤ 64) : OutstandingBounded (u.setCls n k) :=
  forall_setCls (s := u) (Q := fun _ l => l.outstanding ≤ Config.outstandingCeiling)
    (fun c => by rw [State.cls, hu]; exact h c) hk

/-- Every class is legal, and its outstanding count is bounded. -/
def LegalAndBounded (s : State) : Prop := PeriodsLegal s ∧ OutstandingBounded s

theorem keptAdmission_legalAndBounded : KeptAdmission LegalAndBounded := by
  have hp := keptAdmission_periodsLegal
  have hlim {s : State} (h : LegalAndBounded s) {n : ClassId}
      (ho : (s.cls n).outstanding < (s.cls n).active.outLimit) : (s.cls n).outstanding + 1 ≤ 64 :=
    Nat.le_trans ho (h.1 n).active.outLimit_le
  exact {
    offered := fun s r hu h => ⟨hp.offered s r hu h.1, h.2⟩
    bypass := fun s r c u hu ha h => ⟨hp.bypass s r c u hu ha h.1, h.2⟩
    unregulated := fun s r c n hu ha hq hr ho h =>
      ⟨hp.unregulated s r c n hu ha hq hr ho h.1, h.2.setCls rfl ho⟩
    charged := fun s r c n hu ha hq hr ho hc h =>
      ⟨hp.charged s r c n hu ha hq hr ho hc h.1, h.2.setCls rfl (hlim h ho)⟩
    marked := fun s r c n hu ha hq hr ho h => ⟨hp.marked s r c n hu ha hq hr ho h.1, h.2.setCls rfl (hlim h ho)⟩
    refuse := fun s r c n hu ha h => ⟨hp.refuse s r c n hu ha h.1, h.2.setCls rfl (h.2 n)⟩
    join := fun s r c n hu ha hj h => ⟨hp.join s r c n hu ha hj h.1, h.2.setCls rfl (h.2 n)⟩
    stall := fun s r c n hu ha h => ⟨hp.stall s r c n hu ha h.1, h.2⟩
    data := fun s place n d hu h => ⟨hp.data s place n d hu h.1, by
      cases place with
      | held c => exact h.2.setCls rfl (h.2 c)
      | _ => exact h.2⟩ }

theorem kept_legalAndBounded : Kept LegalAndBounded where
  toKeptClasses := kept_periodsLegal.toKeptClasses.and
    (.of_traffic fun h ht c => by rw [ht.outstanding c]; exact h c)
  toKeptAdmission := keptAdmission_legalAndBounded
  toKeptResponses := .of_unread (fun _ => Iff.rfl)
    (fun _ c h => ⟨keptByLower_periodsLegal _ c h.1, h.2.setCls rfl ((Nat.sub_le _ _).trans (h.2 c))⟩) (fun _ h => h)
    fun s c f st h => ⟨h.1.completionNotice c f st, fun d => by rw [(completionNotice_traffic c f st s d).2]; exact h.2 d⟩
  toKeptOthers := .of_unread (fun _ => Iff.rfl)
    fun s h => ⟨.regulatorReset s, fun c => by rw [(sameTraffic_regulatorReset_queue s c).2]; exact h.2 c⟩

/-- A head that is granted is below the ceiling (R91). -/
theorem outstanding_lt_of_nextHead {s : State} {n : ClassId} (h : nextHead s = some n) : (s.cls n).outstanding < 64 :=
  (headReady_iff.1 (eligible_iff.1 (List.find?_some h)).2).1

theorem keptByHead_outstandingBounded : KeptByHead LegalAndBounded := fun s n k a rest hn hk hq hd h =>
  ⟨keptByGrants_periodsLegal.2 s n k a rest hn hk hq hd h.1,
    h.2.setCls (u := forwardOut k { a with marked := false } s) (k := releaseHead a.charge rest (s.cls n)) rfl
      (outstanding_lt_of_nextHead hn)⟩

theorem outstandingBounded_of_resetClasses {s : State} (h : s.classes = pinResetState.classes) :
    OutstandingBounded s := fun c => by
  rw [cls_of_resetClasses h]
  exact Nat.zero_le _

theorem legalAndBounded_of_step {s t : State} (hs : LegalAndBounded s) (e : step s = .next t) : LegalAndBounded t :=
  kept_legalAndBounded.keptStep (fun _ _ h => h) (fun s k a ha hk hd h => ⟨keptByGrants_periodsLegal.1 s k a ha hk hd h.1, h.2⟩)
    keptByHead_outstandingBounded (fun _ _ h => h)
    (fun _ => ⟨periodsLegal_of_resetClasses rfl, outstandingBounded_of_resetClasses rfl⟩) hs e

/-- Settles O59. -/
theorem outstandingKept : Obligations.OutstandingKept := fun _ _ e =>
  ⟨fun h => outstandingExact_of_step h e, fun hp hb => (legalAndBounded_of_step ⟨hp, hb⟩ e).2⟩

end Sys2Proof.Machine
end

section
/-! The management commands on settings, classes and the quiesce state: each leaves its effect, with what follows it in the
same happening, and its answer. -/

namespace Sys2Proof.Machine

/-! ### RESET_N stays high -/

/-- RESET_N is high. -/
def ResetHigh (s : State) : Prop := s.resetN = .high

/-- Nothing but the pin lowers RESET_N. -/
theorem kept_resetHigh : Kept ResetHigh where
  toKeptClasses := .of_periods_unread fun _ => Iff.rfl
  toKeptAdmission := .of_unread fun _ => Iff.rfl
  toKeptResponses := .of_unread (fun _ => Iff.rfl) (fun _ _ h => h) (fun _ h => h) fun s c f st h => by
    rcases completionNotice_cases s c f st with e | ⟨-, e⟩ | ⟨-, e⟩ <;> rw [e]
    · exact h
    · exact h
    · rwa [ResetHigh, State.raiseGlobal_resetN]
  toKeptOthers := {
    raise := fun s kind h => by rwa [ResetHigh, State.raiseGlobal_resetN]
    port := fun _ _ h => h
    sample := fun s line _ h => by rwa [ResetHigh, State.setFilter_resetN]
    filterSetting := fun s line _ _ _ _ h => by rwa [ResetHigh, State.setFilter_resetN]
    tickDiv := fun _ _ h => h
    edge := fun _ _ _ _ _ _ h => h
    lostZero := fun _ h => h
    enables := fun _ _ h => h
    snapshot := fun _ _ h => h
    pop := fun _ _ _ _ h => h
    clearGlobal := fun _ h => h
    quiesceState := fun _ _ _ h => h
    regulator := fun _ h => by simpa only [ResetHigh, regulatorReset, State.mapCls] using h
    releaseReset := fun _ _ _ _ => rfl }

theorem keptByGrants_resetHigh : KeptByGrants ResetHigh :=
  ⟨fun _ _ _ _ _ _ h => h, fun _ _ _ _ _ _ _ _ _ h => h⟩

theorem resetN_noted {s : State} {f : State → State} (h : (f s).resetN = .high) : (noted f s).resetN = .high :=
  kept_resetHigh.keptFollow keptByGrants_resetHigh (kept_resetHigh.keptNoteTableFull h)

/-! ### ALERT_ENABLE_WRITE and LOST_COUNT_WRITE (R142, R148) -/

theorem exec_alertEnableWrite (kind : Fin 11) (v : Word32) (s : State) :
    exec (.alertEnableWrite kind v) s = execAlertEnableWrite kind v s := rfl

theorem exec_lostCountWrite (v : Word32) (s : State) : exec (.lostCountWrite v) s = execLostCountWrite v s := rfl

theorem runEnableWrite_of_bit (kind : Fin 11) {v : Word32} (s : State) (h : v = 0 ∨ v = 1) : runEnableWrite kind v s =
    ({ s with enables := s.enables.set kind.val (decide (v = 1)) kind.isLt }, okay) := by
  rcases h with rfl | rfl <;> rfl

theorem runEnableWrite_of_badValue (kind : Fin 11) {v : Word32} (s : State) (h0 : v ≠ 0) (h1 : v ≠ 1) :
    runEnableWrite kind v s = (s, refusal .badValue) := by
  rw [runEnableWrite, if_neg h0, if_neg h1]

theorem runLostWrite_of_zero {v : Word32} (s : State) (h : v = 0) : runLostWrite v s = ({ s with lost := 0 }, okay) :=
  if_pos h

theorem runLostWrite_of_badValue {v : Word32} (s : State) (h : v ≠ 0) : runLostWrite v s = (s, refusal .badValue) :=
  if_neg h

/-- A command whose effect is nothing that the arbiter of the downstream requests reads. -/
theorem manage_elsewhere {s u : State} {code o f : Byte} {v : Word32} {run : State → State × Answer} {a : Answer}
    (hs : Listening s) (hr : run s = (u, a)) (he : u.entries = s.entries) (ht : u.through = s.through)
    (hc : u.classes = s.classes) (hq : u.quiesce = s.quiesce) (hf : u.flush = s.flush)
    (hd : choiceOpen u = choiceOpen s) :
    ∃ t, manage code o f v run s = .next t ∧ OnlyPort u t ∧ Answers t code a.status a.value :=
  manage_only s hs hr (noteTableFull_elsewhere he ht hc hq hf) hd

/-- Settles O37. -/
theorem alertEnableAndLostCount : Obligations.AlertEnableAndLostCount := by
  intro kind v s hs
  rw [exec_alertEnableWrite, exec_lostCountWrite]
  refine ⟨fun hv => ?_, fun h0 h1 => ?_, fun hv => ?_, fun hv => ?_⟩
  · exact manage_elsewhere hs (runEnableWrite_of_bit kind s hv) rfl rfl rfl rfl rfl rfl
  · exact manage_refused s hs (runEnableWrite_of_badValue kind s h0 h1)
  · exact manage_elsewhere hs (runLostWrite_of_zero s hv) rfl rfl rfl rfl rfl rfl
  · exact manage_refused s hs (runLostWrite_of_badValue s hv)

/-! ### SET_REPEAT (R29) -/

theorem exec_setRepeat (o f : Byte) (v : Word32) (s : State) : exec (.setRepeat o f v) s = execSetRepeat o f v s := rfl

theorem setRepeatAt_of_bit {v : Word32} (s : State) (n : ClassId) (h : v = 0 ∨ v = 1) :
    setRepeatAt v s n = (s.setCls n { s.cls n with oneShot := decide (v = 1) }, okay) := by
  rcases h with rfl | rfl <;> rfl

theorem setRepeatAt_of_badValue {v : Word32} (s : State) (n : ClassId) (h0 : v ≠ 0) (h1 : v ≠ 1) :
    setRepeatAt v s n = (s, refusal .badValue) := by
  rw [setRepeatAt, if_neg h0, if_neg h1]

/-- Settles O48. -/
theorem setRepeat : Obligations.SetRepeat := by
  intro o f v s hs
  rw [exec_setRepeat]
  refine ⟨fun n ho => ⟨fun hv => ?_, fun h0 h1 => ?_⟩, fun ho => manage_refused s hs (onClass_of_no_class s _ ho)⟩
  · have hr : runSetRepeat o v s = (s.setCls n { s.cls n with oneShot := decide (v = 1) }, okay) :=
      (onClass_of_class s _ ho).trans (setRepeatAt_of_bit s n hv)
    exact manage_setCls hs hr ⟨rfl, rfl, rfl, rfl, rfl⟩
  · exact manage_refused s hs ((onClass_of_class s _ ho).trans (setRepeatAt_of_badValue s n h0 h1))

/-! ### COMMIT (R21 to R23) -/

theorem exec_commit (o f : Byte) (v : Word32) (s : State) : exec (.commit o f v) s = execCommit o f v s := rfl

theorem selfReference_iff (n : ClassId) (k : Contract) :
    selfReference n k = true ↔ k.mode = .counted ∧ k.reference = n := by
  simp [selfReference]

theorem commitAt_of_selfReference {s : State} {n : ClassId} (h : selfReference n (s.cls n).staging = true) :
    commitAt s n = (s, refusal .badValue) :=
  if_pos h

theorem commitAt_of_valid {s : State} {n : ClassId} (h : ¬ selfReference n (s.cls n).staging = true) :
    commitAt s n = (atClass n commitClass s, okay) :=
  if_neg h

theorem commitClass_of_unstarted {k : ClassRec} (h : k.state = .stopped ∨ k.state = .expired) :
    commitClass k = ({ k with active := k.staging }, true) := by
  rcases h with h | h <;> simp [commitClass, h]

/-- The class after a COMMIT while a period runs or waits: the copy is pending, and one that it replaces is counted
(R23). -/
def pendingCommit (k : ClassRec) : ClassRec :=
  { k with
    waiting := some k.staging
    live := if k.waiting.isSome then { k.live with supersededCommits := bump k.live.supersededCommits 1 } else k.live }

theorem commitClass_of_started {k : ClassRec} (h : k.state = .armed ∨ k.state = .running ∨ k.state = .suspended) :
    commitClass k = (pendingCommit k, false) := by
  rcases h with h | h | h <;> simp [commitClass, h, pendingCommit]

theorem atClass_of_notice {s : State} {n : ClassId} {f : ClassRec → ClassRec × Bool} {k : ClassRec}
    (h : f (s.cls n) = (k, true)) : atClass n f s = redecideAt n (s.setCls n k) := by
  simp [atClass, h]

theorem atClass_of_no_notice {s : State} {n : ClassId} {f : ClassRec → ClassRec × Bool} {k : ClassRec}
    (h : f (s.cls n) = (k, false)) : atClass n f s = s.setCls n k := by
  simp [atClass, h]

theorem resetN_redecideAt {s : State} (n : ClassId) (h : s.resetN = .high) : (redecideAt n s).resetN = .high :=
  kept_resetHigh.keptRedecideAt n h

/-- A command that leaves class `n` as `k` with a notice, after which a stalled request is decided again (R37, R77). -/
theorem manage_notices {s : State} {code o f : Byte} {v : Word32} {run : State → State × Answer} {n : ClassId}
    {k : ClassRec} {a : Answer} (hs : Listening s) (hr : run s = (redecideAt n (s.setCls n k), a)) :
    ∃ t, manage code o f v run s = .next t ∧ FollowsPort s (redecideAt n (s.setCls n k)) t ∧
      Answers t code a.status a.value :=
  manage_follows s hs hr (resetN_redecideAt n hs.1)

/-- Settles O46, by the validation and by the class state. -/
theorem commit : Obligations.Commit := by
  intro o f v s hs
  rw [exec_commit]
  refine ⟨fun n ho => ?_, fun ho => manage_refused s hs (onClass_of_no_class s _ ho)⟩
  have hrun : runCommit o s = commitAt s n := onClass_of_class s _ ho
  refine ⟨fun hm hr => ?_, fun hv => ?_⟩
  · have h : selfReference n (s.cls n).staging = true := (selfReference_iff ..).2 ⟨hm, hr⟩
    exact manage_refused s hs (hrun.trans (commitAt_of_selfReference h))
  · have h : ¬ selfReference n (s.cls n).staging = true := by
      rw [selfReference_iff]
      exact fun ⟨hm, hr⟩ => hv.elim (· hm) (· hr)
    have hrun := hrun.trans (commitAt_of_valid h)
    refine ⟨fun hk => ?_, fun hk => ?_⟩
    · rw [atClass_of_notice (commitClass_of_unstarted hk)] at hrun
      obtain ⟨t, ht, hf, ha⟩ := manage_notices (code := 0x10) (o := o) (f := f) (v := v) hs hrun
      exact ⟨t, ht, ha, hf⟩
    · rw [atClass_of_no_notice (commitClass_of_started hk)] at hrun
      obtain ⟨t, ht, hp, ha⟩ :=
        manage_setCls (code := 0x10) (o := o) (f := f) (v := v) hs hrun ⟨rfl, rfl, rfl, rfl, rfl⟩
      refine ⟨t, ht, ha, fun hw => ?_, fun hw => ?_⟩
      · simpa [pendingCommit, hw] using hp
      · simpa [pendingCommit, Option.isSome_iff_ne_none, hw] using hp

/-! ### START and STOP (R38, R39) -/

theorem exec_start (o f : Byte) (v : Word32) (s : State) : exec (.start o f v) s = execStart o f v s := rfl

theorem exec_stop (o f : Byte) (v : Word32) (s : State) : exec (.stop o f v) s = execStop o f v s := rfl

theorem startAt_of_stopped {s : State} {n : ClassId} (h : (s.cls n).state = .stopped) :
    startAt s n = (redecideAt n (s.setCls n (startClass s.gate.level (s.cls n))), okay) := by
  rw [startAt, if_pos h, atClass_of_notice rfl]

theorem startAt_of_other {s : State} {n : ClassId} (h : (s.cls n).state ≠ .stopped) :
    startAt s n = (s, refusal .stateRefused) :=
  if_neg h

theorem stopAt_of_stopped {s : State} {n : ClassId} (h : (s.cls n).state = .stopped) : stopAt s n = (s, okay) :=
  if_pos h

theorem stopAt_of_other {s : State} {n : ClassId} (h : (s.cls n).state ≠ .stopped) :
    stopAt s n = (redecideAt n (s.setCls n (stopClass (s.cls n))), okay) := by
  rw [stopAt, if_neg h, atClass_of_notice rfl]

section
variable (gate : Level) {k : ClassRec}

theorem startClass_of_timed_or_counted (h : k.active.mode = .timed ∨ k.active.mode = .counted) :
    startClass gate k = { k with state := .running, elapsed := 0, remaining := k.active.budget } := by
  rcases h with h | h <;> simp [startClass, h]

theorem startClass_of_synced (h : k.active.mode = .synced) :
    startClass gate k = { k with state := .armed, elapsed := 0, remaining := 0, carryIn := 0 } := by
  simp [startClass, h]

theorem startClass_of_gated_active (h : k.active.mode = .gated) (hg : Matches gate k.active.polarity) :
    startClass gate k = { k with state := .running, elapsed := 0, remaining := k.active.budget } := by
  simp [startClass, h, (gateActive_iff ..).2 hg]

theorem startClass_of_gated_inactive (h : k.active.mode = .gated) (hg : ¬ Matches gate k.active.polarity) :
    startClass gate k = { k with state := .suspended, elapsed := 0, remaining := k.active.budget } := by
  rw [← gateActive_iff] at hg
  simp [startClass, h, hg]

end

theorem stopClass_eq (k : ClassRec) : stopClass k = { k with
    state := .stopped
    active := nextContract k
    waiting := none
    remaining := 0
    elapsed := 0
    carryIn := 0
    overrun := false
    frameOwed := false
    gateOwed := false } := by
  cases hw : k.waiting <;> simp [stopClass, applyWaiting, nextContract, hw]

/-- Settles O49, by the class state and the active period mode. -/
theorem startAndStop : Obligations.StartAndStop := by
  intro o f v s hs
  rw [exec_start, exec_stop]
  refine ⟨fun n ho => ?_, fun ho => ⟨manage_refused s hs (onClass_of_no_class s _ ho),
    manage_refused s hs (onClass_of_no_class s _ ho)⟩⟩
  have hstart : runStart o s = startAt s n := onClass_of_class s _ ho
  have hstop : runStop o s = stopAt s n := onClass_of_class s _ ho
  refine ⟨fun hk => ?_, fun hk => ⟨manage_refused s hs (hstart.trans (startAt_of_other hk)), ?_⟩, fun hk => ?_⟩
  · obtain ⟨t, ht, hf, ha⟩ :=
      manage_notices (code := 0x12) (o := o) (f := f) (v := v) hs (hstart.trans (startAt_of_stopped hk))
    exact ⟨_, t, ht, hf, ha, startClass_of_timed_or_counted _, startClass_of_synced _,
      startClass_of_gated_active _, startClass_of_gated_inactive _⟩
  · obtain ⟨t, ht, hf, ha⟩ :=
      manage_notices (code := 0x13) (o := o) (f := f) (v := v) hs (hstop.trans (stopAt_of_other hk))
    rw [stopClass_eq] at hf
    exact ⟨t, ht, ha, hf⟩
  · exact manage_only s hs (hstop.trans (stopAt_of_stopped hk)) (noteTableFull_self s) rfl

/-! ### QUIESCE, QUIESCED and RESUME (R155, R157, R160) -/

theorem exec_quiesce (o f : Byte) (v : Word32) (s : State) : exec (.quiesce o f v) s = execQuiesce o f v s := rfl

theorem exec_quiesced (s : State) : exec .quiesced s = execQuiesced s := rfl

theorem exec_resume (o f : Byte) (v : Word32) (s : State) : exec (.resume o f v) s = execResume o f v s := rfl

theorem drained_iff (s : State) : drained s = true ↔ (∀ n, (s.cls n).queue = []) ∧ s.through = none ∧ s.refused = none ∧
    ∀ k e, s.entry k = some e → e.phase = .abandoned ∧ e.owed = false := by
  simp only [drained, Bool.and_eq_true, List.all_eq_true, List.mem_finRange, true_imp_iff, List.isEmpty_iff,
    Option.isNone_iff_eq_none, and_assoc]
  refine and_congr_right fun _ => and_congr_right fun _ => and_congr_right fun _ => forall_congr' fun k => ?_
  cases s.entry k <;> simp

/-- Where no queue and no through slot holds a request, a happening that leaves both so brings about no wait. -/
theorem noted_of_empty {s u : State} {f : State → State} (h : f s = u) (hq : ∀ n, (u.cls n).queue = [])
    (ht : u.through = none) : noted f s = u := by
  have hready (n : ClassId) : headReady u n = false := headReady_of_queue_nil (hq n)
  have hwaits : grantWaits u = false := by simp [grantWaits, ht, hready]
  have hnote : noteTableFull s u = u := by simp [noteTableFull, bringsTableFull, hwaits]
  have hopen : ¬ ChoiceOpen u := by
    rintro ⟨-, -, hthrough | ⟨c, hc⟩⟩
    · exact hthrough ht
    · simp [eligible, hready] at hc
  rw [noted, h, hnote, follow_idle (.inr hopen)]

theorem testDrain_of_drained {s : State} (hq : s.quiesce = .quiescing) (hd : drained s = true) :
    testDrain s = { s with quiesce := .quiesced, gflags := { s.gflags with quiesced := true } } := by
  rw [testDrain, if_pos ⟨hq, hd⟩]
  rfl

theorem testDrain_of_not {s : State} (h : ¬ (s.quiesce = .quiescing ∧ drained s = true)) : testDrain s = s := if_neg h

/-- The test of the drain, as a happening, leaves what it does. -/
theorem noted_of_drained {s : State} {f : State → State} {q : QuiesceState} {b : Bool} {g : GlobalFlags}
    (h : f s = { s with quiesce := q, flush := b, gflags := g }) (hd : drained s = true) :
    noted f s = { s with quiesce := q, flush := b, gflags := g } := by
  obtain ⟨hq, ht, -⟩ := (drained_iff s).1 hd
  exact noted_of_empty h hq ht

theorem beginQuiesce_of_drained {s : State} (b : Bool) (hd : drained s = true) : beginQuiesce b s = { s with
    quiesce := .quiesced, flush := b, gflags := { s.gflags with quiesced := true } } :=
  testDrain_of_drained (s := { s with quiesce := .quiescing, flush := b }) rfl hd

theorem beginQuiesce_of_not_drained {s : State} (b : Bool) (hd : drained s = false) :
    beginQuiesce b s = { s with quiesce := .quiescing, flush := b } :=
  testDrain_of_not (s := { s with quiesce := .quiescing, flush := b })
    fun h => Bool.false_ne_true (hd.symm.trans h.2)

theorem runQuiesce_of_normal {v : Word32} {s : State} (hv : v = 0 ∨ v = 1) (hq : s.quiesce = .normal) :
    runQuiesce v s = (beginQuiesce (decide (v = 1)) s, okay) := by
  rw [runQuiesce, if_pos hv, if_pos hq]

theorem runQuiesce_of_not_normal {v : Word32} {s : State} (hv : v = 0 ∨ v = 1) (hq : s.quiesce ≠ .normal) :
    runQuiesce v s = (s, refusal .stateRefused) := by
  rw [runQuiesce, if_pos hv, if_neg hq]

theorem runQuiesce_of_badValue {v : Word32} (s : State) (h0 : v ≠ 0) (h1 : v ≠ 1) :
    runQuiesce v s = (s, refusal .badValue) :=
  if_neg fun h => h.elim h0 h1

/-- Settles O38, by the quiesce state and the drain. -/
theorem quiesceAndDrain : Obligations.QuiesceAndDrain := by
  intro o f v s hs
  rw [exec_quiesce, exec_quiesced]
  refine ⟨fun hv hq hd => ?_, fun hv hq hd => ?_, fun hv hq => ?_, fun h0 h1 => ?_, fun hq hd => ?_, fun h => ?_,
    drained_iff s⟩
  · have hr : runQuiesce v s = ({ s with quiesce := .quiescing, flush := decide (v = 1) }, okay) := by
      rw [runQuiesce_of_normal hv hq, beginQuiesce_of_not_drained _ hd]
    exact manage_follows s hs hr hs.1
  · have hr : (runQuiesce v s).1 = { s with
        quiesce := .quiesced, flush := decide (v = 1), gflags := { s.gflags with quiesced := true } } := by
      rw [runQuiesce_of_normal hv hq, beginQuiesce_of_drained _ hd]
    have hn := noted_of_drained (f := fun s => (runQuiesce v s).1) hr hd
    have ha : (runQuiesce v s).2 = okay := by rw [runQuiesce_of_normal hv hq]
    rw [execQuiesce, manage_listening s hs, hn, ha]
    exact ⟨_, rfl, rfl, closedPort_answers ..⟩
  · exact manage_refused s hs (runQuiesce_of_not_normal hv hq)
  · exact manage_refused s hs (runQuiesce_of_badValue s h0 h1)
  · rw [execQuiesced, happening_high s hs.1, noted_of_drained (f := testDrain) (testDrain_of_drained hq hd) hd]
  · have h' : testDrain s = s := testDrain_of_not fun h' => h.elim (· h'.1) fun hd => by simp [hd] at h'
    rw [execQuiesced, happening_high s hs.1, noted, h', noteTableFull_self, follow_self]

theorem acceptance_iff (s : State) : acceptance s = true ↔ Accepting s := by
  simp [acceptance, Accepting, and_assoc]

theorem decidePresented_of_accepting {s : State} {r : Request} {c : Option ClassId} (hu : s.up = .presented r c)
    (ha : Accepting s) : decidePresented s = decideRequest r s := by
  simp [decidePresented, hu, (acceptance_iff s).2 ha]

theorem decidePresented_of_not {s : State} (h : (∀ r c, s.up ≠ .presented r c) ∨ ¬ Accepting s) :
    decidePresented s = s := by
  rcases decidePresented_cases s with e | ⟨r, c, hu, ha, -⟩
  · exact e
  · exact (h.elim (· r c hu) (· ((acceptance_iff s).1 ha))).elim

theorem runResume_of_not_normal {s : State} (hq : s.quiesce ≠ .normal) :
    runResume s = (decidePresented { s with quiesce := .normal, flush := false }, okay) :=
  if_neg hq

/-- Settles O39. -/
theorem resumeDecides : Obligations.ResumeDecides := by
  intro o f v s hs
  rw [exec_resume]
  refine ⟨fun hq => ?_, fun hq => manage_refused s hs (if_pos hq), fun r c => decidePresented_of_accepting,
    decidePresented_of_not⟩
  exact manage_follows s hs (runResume_of_not_normal hq) (kept_resetHigh.keptDecidePresented hs.1)

/-! ### CLASS_MAP_WRITE (R6, R8) -/

theorem exec_classMapWrite (f : Byte) (v : Word32) (s : State) :
    exec (.classMapWrite f v) s = execClassMapWrite f v s := rfl

theorem mapValueOf_mapByte (m : MapValue) : mapValueOf (mapByte m) = some m := by
  cases m with
  | bypass => rfl
  | cls n =>
    have h : (mapByte (.cls n)).toNat = n.val := toNat_ofClass n
    simp [mapValueOf, h]

/-- A byte that names a class map value is the byte of that value (R6). -/
theorem mapByte_of_mapValueOf {b : Byte} {m : MapValue} (h : mapValueOf b = some m) : b = mapByte m := by
  unfold mapValueOf at h
  split at h
  · obtain rfl := Option.some.inj h
    simp [mapByte]
  · split at h
    · next hb =>
      obtain rfl := Option.some.inj h
      exact hb
    · cases h

theorem mapEntryOf_of_bytes {v : Word32} {e : MapEntry} (hr : v.extractLsb' 0 8 = mapByte e.read)
    (hw : v.extractLsb' 8 8 = mapByte e.write) : mapEntryOf v = some e := by
  simp [mapEntryOf, hr, hw, mapValueOf_mapByte]

theorem mapEntryOf_of_no_byte {v : Word32}
    (h : (∀ m, v.extractLsb' 0 8 ≠ mapByte m) ∨ (∀ m, v.extractLsb' 8 8 ≠ mapByte m)) : mapEntryOf v = none := by
  unfold mapEntryOf
  split
  · next r w hr hw => exact (h.elim (· r (mapByte_of_mapValueOf hr)) (· w (mapByte_of_mapValueOf hw))).elim
  · rfl

theorem runClassMapWrite_of_entry {f : Byte} {v : Word32} {i : Initiator} {e : MapEntry} (s : State)
    (hf : f.toNat = i.val) (he : mapEntryOf v = some e) :
    runClassMapWrite f v s = (redecideByMap { s with classMap := s.classMap.set i.val e i.isLt }, okay) := by
  simp [runClassMapWrite, hf, he]

theorem runClassMapWrite_of_badValue {f : Byte} {v : Word32} (s : State) (hf : f.toNat < 64)
    (he : mapEntryOf v = none) : runClassMapWrite f v s = (s, refusal .badValue) := by
  simp [runClassMapWrite, hf, he]

theorem runClassMapWrite_of_badField {f : Byte} {v : Word32} (s : State) (hf : 64 ≤ f.toNat) :
    runClassMapWrite f v s = (s, refusal .badField) :=
  dif_neg (Nat.not_lt.2 hf)

/-- A class map write that gives the stalled request another class decides it again (R8). -/
theorem redecideByMap_of_moved {u : State} {r : Request} {c : ClassId} (hu : u.up = .presented r (some c))
    (hc : classify u r ≠ .cls c) : redecideByMap u = decidePresented u := by
  simp [redecideByMap, hu, hc]

theorem redecideByMap_of_not_moved {u : State} (h : ∀ r c, u.up = .presented r (some c) → classify u r = .cls c) :
    redecideByMap u = u := by
  unfold redecideByMap
  split
  · next r c hu => rw [if_pos (h r c hu)]
  · rfl

section
variable (s : State) (i : Initiator) (e : MapEntry) {r : Request}

theorem classify_set_same (h : r.initiator = i) : classify { s with classMap := s.classMap.set i.val e i.isLt } r =
    match r.kind with | .read => e.read | .write => e.write := by
  subst h
  cases hk : r.kind <;> simp [classify, hk]

theorem classify_set_ne (h : r.initiator ≠ i) :
    classify { s with classMap := s.classMap.set i.val e i.isLt } r = classify s r := by
  have h' : i.val ≠ r.initiator.val := fun x => h (Fin.ext x.symm)
  cases hk : r.kind <;> simp [classify, hk, h']

end

/-- Settles O50, by the field, the two class bytes and the class of a stalled request under the new entry. -/
theorem classMapWrite : Obligations.ClassMapWrite := by
  intro f v s hs
  rw [exec_classMapWrite]
  refine ⟨fun i e hf hr hw => ?_, fun hf h => ?_, fun hf => manage_refused s hs (runClassMapWrite_of_badField s hf)⟩
  · have hrun := runClassMapWrite_of_entry s hf (mapEntryOf_of_bytes hr hw)
    obtain ⟨u, hu⟩ : ∃ u, u = { s with classMap := s.classMap.set i.val e i.isLt } := ⟨_, rfl⟩
    rw [← hu] at hrun
    have hup : u.up = s.up := hu ▸ rfl
    have hhigh : u.resetN = .high := hu ▸ hs.1
    have hdecided : (redecideByMap u).resetN = .high := by
      unfold redecideByMap
      split
      · split
        · exact hhigh
        · exact kept_resetHigh.keptDecidePresented hhigh
      · exact hhigh
    obtain ⟨t, ht, hfollows, ha⟩ := manage_follows (code := 0x02) (o := 0x20) (f := f) (v := v) s hs hrun hdecided
    refine ⟨u, t, hu, fun r hr => hu ▸ classify_set_same s i e hr, fun r hr => hu ▸ classify_set_ne s i e hr, ht, ha,
      fun r c hp hc => ?_, fun h => ?_⟩
    · rwa [redecideByMap_of_moved (hup.trans hp) hc] at hfollows
    · rw [redecideByMap_of_not_moved fun r c hp => h r c (hup ▸ hp)] at hrun
      obtain ⟨t', ht', hport, -⟩ := manage_elsewhere (code := 0x02) (o := 0x20) (f := f) (v := v) hs hrun
        (by rw [hu]) (by rw [hu]) (by rw [hu]) (by rw [hu]) (by rw [hu]) (by rw [hu]; rfl)
      exact Host.Outcome.next.inj (ht'.symm.trans ht) ▸ hport
  · exact manage_refused s hs (runClassMapWrite_of_badValue s hf (mapEntryOf_of_no_byte h))

/-! ### FILTER_SETTINGS_WRITE and HISTOGRAM_EDGE_WRITE (R62, R63, R134) -/

theorem exec_filterSettingsWrite (line : Line) (x : FilterSetting) (v : Word32) (s : State) :
    exec (.filterSettingsWrite line x v) s = execFilterSettingsWrite line x v s := rfl

theorem exec_histogramEdgeWrite (f : Byte) (v : Word32) (s : State) :
    exec (.histogramEdgeWrite f v) s = execHistogramEdgeWrite f v s := rfl

theorem lineInUse_iff (s : State) (line : Line) : lineInUse s line = true ↔
    ∃ n, (s.cls n).active.mode = lineMode line ∧ (s.cls n).state ≠ .stopped := by
  simp [lineInUse]

theorem sampleIntervalOf_intervalTicks {v : Word32} {i : SampleInterval} (h : v.toNat = intervalTicks i) :
    sampleIntervalOf v = some i := by
  cases i <;> simp [sampleIntervalOf, h, intervalTicks]

theorem sampleIntervalOf_eq_none {v : Word32} (h : v.toNat ∉ [0, 1, 4, 16]) : sampleIntervalOf v = none := by
  unfold sampleIntervalOf
  split <;> simp_all

theorem setFilterSetting_of_interval (f : Filter) {v : Word32} {i : SampleInterval} (h : v.toNat = intervalTicks i) :
    setFilterSetting f .sampleInterval v =
      some { f with interval := i, run := 0, count := 0, owed := if i = .off then false else f.owed } := by
  simp only [setFilterSetting, sampleIntervalOf_intervalTicks h, Option.map_some]
  cases i <;> simp

theorem setFilterSetting_of_agreement (f : Filter) {v : Word32} (h : 2 ≤ v.toNat ∧ v.toNat ≤ 7) :
    setFilterSetting f .agreementCount v = some { f with agreement := v.toNat, run := 0, count := 0 } :=
  if_pos h

theorem setFilterSetting_of_outOfRange (f : Filter) {x : FilterSetting} {v : Word32}
    (h : (x = .sampleInterval ∧ v.toNat ∉ [0, 1, 4, 16]) ∨ (x = .agreementCount ∧ ¬ (2 ≤ v.toNat ∧ v.toNat ≤ 7))) :
    setFilterSetting f x v = none := by
  rcases h with ⟨rfl, h⟩ | ⟨rfl, h⟩
  · simp [setFilterSetting, sampleIntervalOf_eq_none h]
  · exact if_neg h

section
variable {line : Line} {x : FilterSetting} {v : Word32} {s : State}

theorem runFilterWrite_of_unused {fl : Filter} (h : setFilterSetting (s.filter line) x v = some fl)
    (hu : lineInUse s line = false) : runFilterWrite line x v s = (s.setFilter line fl, okay) := by
  simp [runFilterWrite, h, hu]

theorem runFilterWrite_of_used {fl : Filter} (h : setFilterSetting (s.filter line) x v = some fl)
    (hu : lineInUse s line = true) : runFilterWrite line x v s = (s, refusal .stateRefused) := by
  simp [runFilterWrite, h, hu]

theorem runFilterWrite_of_outOfRange (h : setFilterSetting (s.filter line) x v = none) :
    runFilterWrite line x v s = (s, refusal .badValue) := by
  simp [runFilterWrite, h]

theorem choiceOpen_setFilter (fl : Filter) : choiceOpen (s.setFilter line fl) = choiceOpen s := by
  cases line <;> rfl

/-- A filter settings write in range, as a command, by whether the line is in use (R62). -/
theorem exec_filterSettingsWrite_of_inRange {fl : Filter} (hs : Listening s)
    (h : setFilterSetting (s.filter line) x v = some fl) :
    ((∀ n, (s.cls n).active.mode = lineMode line → (s.cls n).state = .stopped) →
      ∃ t, exec (.filterSettingsWrite line x v) s = .next t ∧ OnlyPort (s.setFilter line fl) t ∧ Answers t 0x02 .ok 0) ∧
    ((∃ n, (s.cls n).active.mode = lineMode line ∧ (s.cls n).state ≠ .stopped) →
      ∃ t, exec (.filterSettingsWrite line x v) s = .next t ∧ RefusedWith s t 0x02 .stateRefused) := by
  rw [exec_filterSettingsWrite]
  refine ⟨fun hu => ?_, fun hu => manage_refused s hs (runFilterWrite_of_used h ((lineInUse_iff ..).2 hu))⟩
  have hfree : lineInUse s line = false := by
    rw [Bool.eq_false_iff, ne_eq, lineInUse_iff]
    rintro ⟨n, hm, hk⟩
    exact hk (hu n hm)
  exact manage_elsewhere hs (runFilterWrite_of_unused h hfree) (State.setFilter_entries ..) (State.setFilter_through ..)
    (State.setFilter_classes ..) (State.setFilter_quiesce ..) (State.setFilter_flush ..) (choiceOpen_setFilter fl)

end

section
variable {f : Byte} {k : Fin 7} {v : Word32} {s : State}

/-- The value is in range and in order for edge `k` (R134). -/
def EdgeFits (s : State) (k : Fin 7) (v : Nat) : Prop :=
  1 ≤ v ∧ v ≤ 16777215 ∧ ∀ j : Fin 7, (j.val + 1 = k.val → s.edges[j] < v) ∧ (k.val + 1 = j.val → v < s.edges[j])

/-- An edge write under a field that names an edge: range and order first, then the state of the device (R134). -/
theorem runEdgeWrite_of_edge (hf : f.toNat = k.val) : runEdgeWrite f v s =
    if v.toNat < 1 ∨ Config.intervalMax < v.toNat then (s, refusal .badValue)
    else if edgeFits s.edges k v.toNat = false then (s, refusal .badValue)
    else if s.quiesce = .quiesced ∨ allStopped s = true then
      ({ s with edges := s.edges.set k.val v.toNat k.isLt }, okay)
    else (s, refusal .stateRefused) := by
  simp [runEdgeWrite, hf]

theorem runEdgeWrite_of_fits (hf : f.toNat = k.val) (h : EdgeFits s k v.toNat) : runEdgeWrite f v s =
    if s.quiesce = .quiesced ∨ allStopped s = true then
      ({ s with edges := s.edges.set k.val v.toNat k.isLt }, okay)
    else (s, refusal .stateRefused) := by
  obtain ⟨hmin, hmax, hord⟩ := h
  rw [runEdgeWrite_of_edge hf, if_neg (by simp only [Config.intervalMax]; omega),
    if_neg (by rw [(edgeFits_iff ..).2 hord]; decide)]

theorem runEdgeWrite_of_unfit (hf : f.toNat = k.val) (h : ¬ EdgeFits s k v.toNat) :
    runEdgeWrite f v s = (s, refusal .badValue) := by
  rw [runEdgeWrite_of_edge hf]
  split
  · rfl
  · next hr =>
    rw [if_pos]
    rw [Bool.eq_false_iff, ne_eq, edgeFits_iff]
    exact fun hord => h ⟨by omega, by simp only [Config.intervalMax] at hr; omega, hord⟩

end

/-- Settles O52, by the checks in their order. -/
theorem filterAndEdgeWrites : Obligations.FilterAndEdgeWrites := by
  intro v s hs
  refine ⟨fun line x fl h => ?_, fun line x h => ?_, fun f hf => ?_, fun f k fits hf hfits => ?_⟩
  · refine exec_filterSettingsWrite_of_inRange hs ?_
    rcases h with ⟨i, rfl, hv, rfl⟩ | ⟨rfl, h2, h7, rfl⟩
    · exact setFilterSetting_of_interval _ hv
    · exact setFilterSetting_of_agreement _ ⟨h2, h7⟩
  · rw [exec_filterSettingsWrite]
    exact manage_refused s hs (runFilterWrite_of_outOfRange (setFilterSetting_of_outOfRange _ h))
  · rw [exec_histogramEdgeWrite]
    exact manage_refused s hs (dif_neg (Nat.not_lt.2 hf))
  · rw [exec_histogramEdgeWrite, hfits]
    refine ⟨fun h hq => ?_, fun h hq hstop => ?_, fun h => manage_refused s hs (runEdgeWrite_of_unfit hf h)⟩
    · have hr := runEdgeWrite_of_fits hf h
      rw [if_pos (hq.imp_right (allStopped_iff s).2)] at hr
      exact manage_elsewhere hs hr rfl rfl rfl rfl rfl rfl
    · have hr := runEdgeWrite_of_fits hf h
      rw [if_neg fun hc => hc.elim hq fun ha => hstop ((allStopped_iff s).1 ha)] at hr
      exact manage_refused s hs hr

end Sys2Proof.Machine
end

section
/-! The step, pin reset and its release, and which commands have a next state. -/

namespace Sys2Proof.Machine

/-! ### The queue of commands -/

/-- The queue holds the commands of `l`. -/
def QueueIs (l : List Instr) (s : State) : Prop := s.pending = l

theorem kept_queueIs (l : List Instr) : Kept (QueueIs l) where
  toKeptClasses := .of_periods_unread fun _ => Iff.rfl
  toKeptAdmission := .of_unread fun _ => Iff.rfl
  toKeptResponses := .of_unread (fun _ => Iff.rfl) (fun _ _ h => h) (fun _ h => h) fun s c f st h => by
    rcases completionNotice_cases s c f st with e | ⟨-, e⟩ | ⟨-, e⟩ <;> rw [e]
    · exact h
    · exact h
    · rwa [QueueIs, State.raiseGlobal_pending]
  toKeptOthers := .of_unread (fun _ => Iff.rfl) fun _ h => by
    simpa only [QueueIs, regulatorReset, State.mapCls] using h

theorem exec_pinReset (s : State) : exec .pinReset s = .next { pinResetState with pending := s.pending } := rfl

/-- A command leaves the queue behind it. -/
theorem pending_of_exec {c : Instr} {s t : State} (e : exec c s = .next t) : t.pending = s.pending := by
  by_cases hc : c = .pinReset
  · subst hc
    cases e
    rfl
  · exact (kept_queueIs s.pending).execOf c ⟨fun _ _ _ _ _ _ h => h, fun _ _ _ _ _ _ _ _ _ h => h⟩
      (fun _ _ _ h => h) (fun h => absurd h hc) rfl e

/-- Settles O1. -/
theorem stepRunsFrontCommand : Obligations.StepRunsFrontCommand :=
  ⟨fun c l s h => by rw [step, h], fun s h => by rw [step, h], fun _ _ _ e => pending_of_exec e⟩

/-! ### PIN_RESET -/

theorem cls_pinReset (l : List Instr) (n : ClassId) : ({ pinResetState with pending := l } : State).cls n = resetClass :=
  cls_of_resetClasses rfl n

theorem entry_of_resetEntries {s : State} (h : s.entries = pinResetState.entries) (k : EntryIndex) :
    s.entry k = none := by
  simp [State.entry, h, pinResetState]

theorem filter_pinReset (l : List Instr) (line : Line) :
    ({ pinResetState with pending := l } : State).filter line = resetFilter := by
  cases line <;> rfl

/-- Settles O2. -/
theorem pinResetValues : Obligations.PinResetValues := by
  intro s
  refine ⟨_, exec_pinReset s, rfl, rfl, rfl, rfl, fun line => ?_, fun i => ?_, fun n => ?_, rfl, rfl, rfl, rfl, rfl, rfl,
    entry_of_resetEntries rfl, rfl, rfl, rfl, rfl, rfl, rfl, rfl, rfl, rfl, fun i => ?_, rfl, rfl, rfl, rfl⟩
  · rw [filter_pinReset]
    exact ⟨rfl, rfl, rfl, rfl, rfl⟩
  · exact Vector.getElem_replicate _
  · rw [cls_pinReset]
    exact ⟨rfl, rfl, rfl, rfl, rfl, rfl, rfl, rfl, rfl, rfl, rfl, rfl, rfl⟩
  · exact Vector.getElem_replicate _

/-! ### While RESET_N is low -/

theorem happening_low {s : State} (f : State → State) (h : s.resetN = .low) : happening s f = .next s :=
  if_neg (by simp [h])

theorem manageWhole_low {s : State} {code o f : Byte} {v : Word32} {run : State → State × Answer}
    {rest : State → State} (h : s.resetN = .low) : manageWhole code o f v run rest s = .next s :=
  if_neg (by simp [h])

/-- Settles O4: every other command is a happening, a frame or a sample, each guarded by RESET_N. -/
theorem nothingHappensInReset : Obligations.NothingHappensInReset := by
  intro c s h hpin hrelease
  have hlow : ¬ s.resetN = .high := by simp [h]
  cases c
  case pinReset => exact absurd rfl hpin
  case resetNRelease f g m => exact absurd rfl (hrelease f g m)
  case filterEdge => exact if_neg hlow
  case frameClose => exact if_neg hlow
  case upstreamResponseChoice p => exact (if_neg fun hc => hlow hc.1).trans (happening_low _ h)
  all_goals first | exact happening_low _ h | exact manageWhole_low h

/-! ### Happenings of which no wait and no choice comes -/

/-- A happening that changes nothing that R91, R94 and R99 read leaves its own change. -/
theorem noted_elsewhere {s u : State} {f : State → State} (h : f s = u) (he : u.entries = s.entries)
    (ht : u.through = s.through) (hc : u.classes = s.classes) (hq : u.quiesce = s.quiesce) (hf : u.flush = s.flush)
    (hd : choiceOpen u = choiceOpen s) : noted f s = u := by
  rw [noted, h, noteTableFull_elsewhere he ht hc hq hf, follow_elsewhere hd]

/-! ### RESET_N_RELEASE -/

/-- Under OFF the filter takes each sample, and its level follows the line (R58, R65). -/
theorem takeDueSample_of_off {f : Filter} (raw : Level) (hi : f.interval = .off) (hr : f.run = 0) :
    (takeDueSample raw f).1 = { f with level := raw, raw := raw, owed := false } := by
  simp only [takeDueSample, if_pos hi, takeSample]
  split
  · next e => simp_all
  · rfl

theorem oweCopy_of_stopped (line : Line) {k : ClassRec} (h : k.state = .stopped) : oweCopy line k = k := by
  refine if_neg ?_
  rw [Bool.not_eq_true]
  cases line <;> cases hm : k.active.mode <;> simp [receptive, hm, h]

theorem oweCopies_of_allStopped (line : Line) {s : State} (h : AllStopped s) : oweCopies line s = s := by
  have hc : (oweCopies line s).classes = s.classes := State.classes_ext fun c => by
    rw [oweCopies, State.cls_mapCls, oweCopy_of_stopped line (h c)]
  have he : oweCopies line s = { s with classes := (oweCopies line s).classes } := by
    simp only [oweCopies, State.mapCls]
  rw [he, hc]

theorem sampleLine_of_allStopped (line : Line) (raw : Level) {s : State} (h : AllStopped s) :
    sampleLine line raw s = s.setFilter line (takeDueSample raw (s.filter line)).1 := by
  have hs : AllStopped (s.setFilter line (takeDueSample raw (s.filter line)).1) := fun n => by
    rw [State.cls_setFilter]
    exact h n
  unfold sampleLine
  dsimp only
  split
  · exact oweCopies_of_allStopped line hs
  · rfl

/-- Settles O3: both samples are taken under OFF, and a STOPPED class receives no edge. -/
theorem resetRelease : Obligations.ResetRelease := by
  intro f g mcsLow s hlow hstop hf hg hfr hgr
  obtain ⟨r, hr⟩ : ∃ r : State, r = { s with
      resetN := .high, port := { s.port with phase := if mcsLow then .ignoring else .idle } } := ⟨_, rfl⟩
  have hframe : sampleLine .frame f r = { r with frame := { s.frame with level := f, raw := f, owed := false } } := by
    rw [sampleLine_of_allStopped .frame f (hr ▸ hstop), ← takeDueSample_of_off f hf hfr, hr]
    rfl
  have hgate : sampleLine .gate g (sampleLine .frame f r) = { r with
      frame := { s.frame with level := f, raw := f, owed := false }
      gate := { s.gate with level := g, raw := g, owed := false } } := by
    rw [hframe, sampleLine_of_allStopped .gate g (hr ▸ hstop), ← takeDueSample_of_off g hg hgr, hr]
    rfl
  have hrelease : releaseReset f g mcsLow s = { s with
      resetN := .high
      frame := { s.frame with level := f, raw := f, owed := false }
      gate := { s.gate with level := g, raw := g, owed := false }
      port := { s.port with phase := if mcsLow then .ignoring else .idle } } := by
    have h : releaseReset f g mcsLow s = sampleLine .gate g (sampleLine .frame f r) := hr ▸ rfl
    rw [h, hgate, hr]
  have hexec : exec (.resetNRelease f g mcsLow) s =
      .next (if s.resetN = .low then noted (releaseReset f g mcsLow) s else s) := rfl
  rw [hexec, if_pos hlow, noted_elsewhere hrelease rfl rfl rfl rfl rfl rfl]

/-! ### The state after reset -/

theorem cls_reset (n : ClassId) : State.reset.cls n = resetClass := cls_of_resetClasses rfl n

theorem entry_reset (k : EntryIndex) : State.reset.entry k = none := entry_of_resetEntries rfl k

theorem heldTotal_of_empty {s : State} (h : ∀ n, (s.cls n).queue = []) : heldTotal s = 0 := by
  simp [heldTotal, h]

/-- Settles O5. -/
theorem resetMeetsInvariants : Obligations.ResetMeetsInvariants := by
  have hqueue (n : ClassId) : (State.reset.cls n).queue = [] := by rw [cls_reset]; rfl
  have hfree (k : EntryIndex) (f : Flight) : State.reset.entry k ≠ some f := by rw [entry_reset]; nofun
  refine ⟨rfl, ⟨fun c => ?_, fun c => ?_, rfl, rfl, fun k f he => absurd he (hfree k f)⟩,
    periodsLegal_of_resetClasses rfl, ?_, ⟨Nat.zero_le _, Nat.zero_le _⟩, edgesLegal_defaultEdges rfl,
    ⟨filterLegal_resetFilter, filterLegal_resetFilter⟩, fun k f he => absurd he (hfree k f), fun k => ?_,
    outstandingExact_of_pinReset rfl rfl rfl, outstandingBounded_of_resetClasses rfl, fun _ => ⟨rfl, rfl⟩,
    fun _ => ⟨rfl, fun k f he => absurd he (hfree k f), fun ⟨b, _, hb, _⟩ => by cases hb⟩,
    (fun _ hb => by cases hb), fun ⟨_, _, hw⟩ => ?_⟩
  · rw [cls_reset]
    exact ⟨rfl, rfl⟩
  · rw [cls_reset]
    rfl
  · exact (heldTotal_of_empty hqueue).trans_le (Nat.zero_le _)
  · exact ⟨fun ⟨f, he, _⟩ => absurd he (hfree k f), fun ⟨_, _, _, hu⟩ => by cases hu⟩
  · rcases hw with ht | ⟨c, hc⟩
    · exact ht rfl
    · have hr := headReady_of_queue_nil (hqueue c)
      simp [eligible, hr] at hc

/-! ### Which commands have a next state -/

theorem exists_happening (s : State) (f : State → State) : ∃ t, happening s f = .next t := by
  unfold happening
  split <;> exact ⟨_, rfl⟩

theorem exists_manageWhole (s : State) (code o f : Byte) (v : Word32) (run : State → State × Answer)
    (rest : State → State) : ∃ t, manageWhole code o f v run rest s = .next t := by
  unfold manageWhole
  split <;> exact ⟨_, rfl⟩

theorem exists_frameClose (bits : List Bool) (s : State) : ∃ t, execFrameClose bits s = .next t := by
  unfold execFrameClose
  split
  · split <;> exact ⟨_, rfl⟩
  · exact ⟨_, rfl⟩

theorem exists_filterEdge (line : Line) (taking : EdgeTaking) (s : State) :
    ∃ t, execFilterEdge line taking s = .next t := by
  unfold execFilterEdge
  split <;> exact ⟨_, rfl⟩

/-- A response choice whose beat names no STREAMING entry has a next state. -/
theorem exists_responseChoice {s : State} {p : Option DownBeat} (h : namesStreaming p s = false) :
    ∃ t, execUpstreamResponseChoice p s = .next t := by
  unfold execUpstreamResponseChoice
  rw [if_neg (by simp [h])]
  exact exists_happening _ _

theorem namesStreaming_none (s : State) : namesStreaming none s = false := Bool.and_false _

/-- While a response is passed, its channel is not open (R175). -/
theorem namesStreaming_of_owned {s : State} (h : StreamingOwned s) (p : Option DownBeat) :
    namesStreaming p s = false := by
  rw [Bool.eq_false_iff]
  intro hn
  simp only [namesStreaming, Bool.and_eq_true] at hn
  obtain ⟨hopen, hnames⟩ := hn
  split at hnames
  · next b =>
    split at hnames
    · next f he =>
      obtain ⟨tag, held, status, hu⟩ := (h b.tag).1 ⟨f, he, of_decide_eq_true hnames⟩
      simp [downstreamOpen, livePassing, hu] at hopen
    · cases hnames
  · cases hnames

/-- Every command but a response choice has a next state. -/
theorem exists_exec {c : Instr} (s : State) (h : ∀ p, c ≠ .upstreamResponseChoice p) : ∃ t, exec c s = .next t := by
  cases c
  case upstreamResponseChoice p => exact absurd rfl (h p)
  case filterEdge => exact exists_filterEdge ..
  case frameClose => exact exists_frameClose ..
  case pinReset => exact ⟨_, rfl⟩
  case resetNRelease => exact ⟨_, rfl⟩
  all_goals first | exact exists_happening _ _ | exact exists_manageWhole ..

theorem downstreamOpen_iff (s : State) : downstreamOpen s = true ↔ DownstreamOpen s := by
  simp [downstreamOpen, DownstreamOpen, and_assoc]

/-- Settles O55: a response choice alone can stop, and its beat names no STREAMING entry while each belongs to the
response in progress. -/
theorem noCommandStops : Obligations.NoCommandStops := by
  intro c s
  refine ⟨fun h => ?_, fun h => ?_, fun b f hr hd he hp => ?_⟩
  · by_cases hc : ∃ p, c = .upstreamResponseChoice p
    · obtain ⟨p, rfl⟩ := hc
      exact exists_responseChoice (namesStreaming_of_owned h p)
    · exact exists_exec s fun p hp => hc ⟨p, hp⟩
  · by_cases hc : c = .upstreamResponseChoice none
    · subst hc
      exact exists_responseChoice (namesStreaming_none s)
    · refine exists_exec s fun p hp => ?_
      cases p with
      | none => exact hc hp
      | some b => exact h b hp
  · have hn : namesStreaming (some b) s = true := by
      simp [namesStreaming, (downstreamOpen_iff s).2 hd, he, hp]
    exact if_pos ⟨hr, hn⟩

end Sys2Proof.Machine
end

section
/-! Frames (R162 to R167): the bits of bytes and words, what a closed frame is judged to be, and the commands that a good
frame and a WRITE_FIELD run. -/

namespace Sys2Proof.Machine

/-! ### The number that bits spell (R162) -/

theorem bitsNat_append (l : List Bool) (b : Bool) : bitsNat (l ++ [b]) = 2 * bitsNat l + b.toNat := by
  simp [bitsNat]

/-- The `n` most significant bits of a word spell its upper part. -/
theorem bitsNat_upper {w : Nat} (x : BitVec w) :
    ∀ n, n ≤ w → bitsNat ((List.range n).map x.getMsbD) = x.toNat / 2 ^ (w - n)
  | 0, _ => by
    rw [Nat.sub_zero, Nat.div_eq_of_lt x.isLt]
    rfl
  | n + 1, h => by
    have hbit : (x.getMsbD n).toNat = x.toNat / 2 ^ (w - (n + 1)) % 2 := by
      have hn : n < w := h
      simp only [BitVec.getMsbD, hn, decide_true, Bool.true_and, BitVec.getLsbD, Nat.toNat_testBit]
      rw [show w - 1 - n = w - (n + 1) by omega]
    have hpow : 2 ^ (w - n) = 2 ^ (w - (n + 1)) * 2 := by
      rw [← Nat.pow_succ]
      congr 1
      omega
    rw [List.range_succ, List.map_append, List.map_singleton, bitsNat_append, bitsNat_upper x n (by omega), hbit, hpow,
      ← Nat.div_div_eq_div_mul]
    omega

theorem bitsNat_bits {w : Nat} (x : BitVec w) : bitsNat ((List.range w).map x.getMsbD) = x.toNat := by
  rw [bitsNat_upper x w (Nat.le_refl w), Nat.sub_self, Nat.pow_zero, Nat.div_one]

@[simp] theorem length_byteBits (b : Byte) : (byteBits b).length = 8 := by simp [byteBits]

theorem bitsByte_byteBits (b : Byte) : bitsByte (byteBits b) = b := by
  rw [bitsByte, byteBits, bitsNat_bits, BitVec.ofNat_toNat, BitVec.setWidth_eq]

theorem byteBits_getElem? (b : Byte) {i : Nat} (h : i < 8) : (byteBits b)[i]? = some (b.getMsbD i) := by
  simp [byteBits, h]

/-! ### Frames of bytes (R165) -/

@[simp] theorem length_flatMap_byteBits : ∀ bytes : List Byte, (bytes.flatMap byteBits).length = 8 * bytes.length
  | [] => rfl
  | b :: l => by
    rw [List.flatMap_cons, List.length_append, length_byteBits, length_flatMap_byteBits l, List.length_cons]
    omega

/-- Bit `i` of byte `j` of a frame. -/
theorem flatMap_byteBits_getElem? {i : Nat} (h : i < 8) :
    ∀ (bytes : List Byte) (j : Nat), (bytes.flatMap byteBits)[8 * j + i]? = bytes[j]?.map fun b => b.getMsbD i
  | [], _ => by simp
  | b :: l, 0 => by
    rw [List.flatMap_cons, List.getElem?_append_left (by rw [length_byteBits]; omega), Nat.mul_zero, Nat.zero_add,
      byteBits_getElem? b h]
    rfl
  | b :: l, j + 1 => by
    rw [List.flatMap_cons, List.getElem?_append_right (by rw [length_byteBits]; omega), length_byteBits,
      show 8 * (j + 1) + i - 8 = 8 * j + i by omega, flatMap_byteBits_getElem? h l j, List.getElem?_cons_succ]

theorem sealBytes_eq (bytes : List Byte) :
    sealBytes bytes = (bytes ++ [checkByte (bytes.flatMap byteBits)]).flatMap byteBits := by
  simp [sealBytes]

/-- The four bytes of a value word carry its bits in order. -/
theorem wordBytes_bits (v : Word32) : (wordBytes v).flatMap byteBits = (List.range 32).map v.getMsbD := by
  refine List.ext_getElem? fun n => ?_
  by_cases hn : n < 32
  · have hbyte := flatMap_byteBits_getElem? (i := n % 8) (by omega) (wordBytes v) (n / 8)
    rw [show 8 * (n / 8) + n % 8 = n by omega] at hbyte
    rw [hbyte]
    obtain ⟨j, hj⟩ : ∃ j, j = n / 8 := ⟨_, rfl⟩
    rw [← hj]
    have hj4 : j < 4 := by omega
    interval_cases j <;> simp [wordBytes, BitVec.getMsbD, hn] <;> grind
  · rw [List.getElem?_eq_none (by simp [wordBytes]; omega), List.getElem?_eq_none (by simp; omega)]

theorem bitsWord_wordBytes (v : Word32) : bitsWord ((wordBytes v).flatMap byteBits) = v := by
  rw [bitsWord, wordBytes_bits, bitsNat_bits, BitVec.ofNat_toNat, BitVec.setWidth_eq]

/-! ### The judging of a frame (R163) -/

theorem judge_of_length {bits : List Bool} (h : bits.length ≠ 64) {e : Byte} (hshort : bits.length < 8 → e = 0)
    (hlong : 8 ≤ bits.length → ∀ i : Fin 8, bits[i.val]? = some (e.getMsbD i.val)) : judge bits = .framing e := by
  rw [judge, if_pos h]
  congr 1
  split
  · next h8 =>
    have htake : bits.take 8 = byteBits e := by
      refine List.ext_getElem? fun n => ?_
      by_cases hn : n < 8
      · rw [List.getElem?_take_of_lt hn, byteBits_getElem? e hn]
        exact hlong h8 ⟨n, hn⟩
      · rw [List.getElem?_eq_none (by simp; omega), List.getElem?_eq_none (by simp; omega)]
    rw [htake, bitsByte_byteBits]
  · next h8 => exact (hshort (by omega)).symm

section
variable (c o f v3 v2 v1 v0 k : Byte)

/-- The parts that the judging takes of a frame of eight bytes. -/
theorem frame_parts {bits : List Bool} (h : bits = [c, o, f, v3, v2, v1, v0, k].flatMap byteBits) :
    bits.length = 64 ∧ bitsByte (bits.drop 56) = k ∧ bits.take 56 = [c, o, f, v3, v2, v1, v0].flatMap byteBits ∧
      bitsByte (bits.take 8) = c ∧ bitsByte ((bits.drop 8).take 8) = o ∧ bitsByte ((bits.drop 16).take 8) = f ∧
      (bits.drop 24).take 32 = [v3, v2, v1, v0].flatMap byteBits := by
  have hcut (l r : List Byte) (hl : bits = l.flatMap byteBits ++ r.flatMap byteBits) (n : Nat) (hn : n = 8 * l.length) :
      bits.take n = l.flatMap byteBits ∧ bits.drop n = r.flatMap byteBits := by
    subst hl hn
    rw [← length_flatMap_byteBits]
    exact ⟨List.take_left, List.drop_left⟩
  have hbyte (b : Byte) (l : List Byte) : bitsByte (((b :: l).flatMap byteBits).take 8) = b := by
    rw [List.flatMap_cons, List.take_left' (length_byteBits b), bitsByte_byteBits]
  have hword : ([v3, v2, v1, v0, k].flatMap byteBits).take 32 = [v3, v2, v1, v0].flatMap byteBits := by
    rw [show [v3, v2, v1, v0, k] = [v3, v2, v1, v0] ++ [k] from rfl, List.flatMap_append]
    exact List.take_left' (length_flatMap_byteBits _)
  obtain ⟨-, h8⟩ := hcut [c] [o, f, v3, v2, v1, v0, k] (by rw [h]; simp) 8 rfl
  obtain ⟨-, h16⟩ := hcut [c, o] [f, v3, v2, v1, v0, k] (by rw [h]; simp) 16 rfl
  obtain ⟨-, h24⟩ := hcut [c, o, f] [v3, v2, v1, v0, k] (by rw [h]; simp) 24 rfl
  obtain ⟨h56, hk⟩ := hcut [c, o, f, v3, v2, v1, v0] [k] (by rw [h]; simp) 56 rfl
  refine ⟨by rw [h]; exact length_flatMap_byteBits _, ?_, h56, by rw [h]; exact hbyte _ _, by rw [h8]; exact hbyte _ _,
    by rw [h16]; exact hbyte _ _, by rw [h24]; exact hword⟩
  rw [hk, List.flatMap_singleton, bitsByte_byteBits]

theorem judge_of_check {bits : List Bool} (h : bits = [c, o, f, v3, v2, v1, v0, k].flatMap byteBits)
    (hk : k ≠ checkByte ([c, o, f, v3, v2, v1, v0].flatMap byteBits)) : judge bits = .check c := by
  obtain ⟨hlen, hcheck, h56, hcode, -⟩ := frame_parts c o f v3 v2 v1 v0 k h
  rw [judge, if_neg (not_not.2 hlen), hcheck, h56, if_pos hk, hcode]

/-- The bits of a command frame spell the command (R165). -/
theorem judge_commandBits (v : Word32) : judge (commandBits c o f v) = .command c o f v := by
  have hbits := sealBytes_eq (c :: o :: f :: wordBytes v)
  have hw : [v.extractLsb' 24 8, v.extractLsb' 16 8, v.extractLsb' 8 8, v.extractLsb' 0 8] = wordBytes v := rfl
  obtain ⟨hlen, hcheck, h56, hcode, hobject, hfield, hvalue⟩ := frame_parts c o f _ _ _ _ _ hbits
  rw [hw] at hvalue
  rw [commandBits, judge, if_neg (not_not.2 hlen), hcheck, h56, hw, if_neg (not_not.2 rfl), hcode, hobject, hfield,
    hvalue, bitsWord_wordBytes]

end

/-! ### FRAME_CLOSE (R163, R167) -/

theorem exec_frameClose (bits : List Bool) (s : State) : exec (.frameClose bits) s = execFrameClose bits s := rfl

/-- A frame that is not executed leaves its answer alone. -/
theorem closeFrame_of_refused {bits : List Bool} {echo : Byte} {s : State} (h : s.port.phase ≠ .ignoring) (st : Status) :
    RefusedWith s (closeFrame bits echo (fun s => (s, refusal st)) id s) echo st := by
  rw [closeFrame, if_neg h]
  exact ⟨rfl, closedPort_answers ..⟩

theorem exec_frameClose_of_framing {bits : List Bool} {e : Byte} {s : State} (hs : Listening s)
    (h : judge bits = .framing e) : ∃ t, exec (.frameClose bits) s = .next t ∧ RefusedWith s t e .framing := by
  obtain ⟨hhigh, hphase⟩ := hs
  rw [exec_frameClose, execFrameClose, if_pos hhigh, h]
  exact ⟨_, rfl, closeFrame_of_refused hphase _⟩

theorem exec_frameClose_of_check {bits : List Bool} {e : Byte} {s : State} (hs : Listening s)
    (h : judge bits = .check e) : ∃ t, exec (.frameClose bits) s = .next t ∧ RefusedWith s t e .checkFailed := by
  obtain ⟨hhigh, hphase⟩ := hs
  rw [exec_frameClose, execFrameClose, if_pos hhigh, h]
  exact ⟨_, rfl, closeFrame_of_refused hphase _⟩

theorem exec_frameClose_of_ignoring (bits : List Bool) {s : State} (hr : s.resetN = .high)
    (h : s.port.phase = .ignoring) :
    exec (.frameClose bits) s = .next { s with port := { s.port with phase := .idle } } := by
  have hclose (echo : Byte) (run : State → State × Answer) (rest : State → State) :
      closeFrame bits echo run rest s = { s with port := { s.port with phase := .idle } } := if_pos h
  rw [exec_frameClose, execFrameClose, if_pos hr]
  split <;> rw [hclose]

theorem exec_frameOpen_of_not_idle {s : State} (hr : s.resetN = .high) (h : s.port.phase ≠ .idle) :
    exec .frameOpen s = .next s := by
  have hp : openPort s.port = s.port := by
    unfold openPort
    split
    · next e => exact absurd e h
    · rfl
  rw [exec_frameOpen, execFrameOpen, happening_port _ hr, hp]

/-! ### MDO (R162, R165) -/

/-- The seven bytes of a response frame before its check byte. -/
def responseBytes (r : Response) : List Byte := statusByte r.status :: r.echo :: (wordBytes r.value ++ [r.flags])

theorem responseBits_eq (r : Response) :
    responseBits r = (responseBytes r ++ [checkByte ((responseBytes r).flatMap byteBits)]).flatMap byteBits :=
  sealBytes_eq _

theorem length_responseBits (r : Response) : (responseBits r).length = 64 := by
  rw [responseBits_eq, length_flatMap_byteBits]
  rfl

/-- MDO carries bit `i` of byte `j` of the response frame. -/
theorem mdoBit_of_byte {r : Response} {j i : Nat} {b : Byte} (hi : i < 8)
    (hb : (responseBytes r ++ [checkByte ((responseBytes r).flatMap byteBits)])[j]? = some b) :
    mdoBit r (8 * j + i) = b.getMsbD i := by
  rw [mdoBit, List.getD_eq_getElem?_getD, responseBits_eq, flatMap_byteBits_getElem? hi, hb]
  rfl

/-- MDO carries the value word in places 16 to 47. -/
theorem mdoBit_of_value (r : Response) {i : Nat} (hi : i < 32) : mdoBit r (16 + i) = r.value.getMsbD i := by
  have hbits := congrArg (fun l => l[i]?) (wordBytes_bits r.value)
  have hbyte := flatMap_byteBits_getElem? (i := i % 8) (by omega) (wordBytes r.value) (i / 8)
  rw [show 8 * (i / 8) + i % 8 = i by omega] at hbyte
  simp only [List.getElem?_map, List.getElem?_range hi, Option.map_some] at hbits
  rw [hbyte] at hbits
  obtain ⟨b, hb, hv⟩ := Option.map_eq_some_iff.1 hbits
  have hplace : 16 + i = 8 * (i / 8 + 2) + i % 8 := by omega
  rw [hplace, mdoBit_of_byte (b := b) (by omega), hv]
  have hlt : i / 8 < (wordBytes r.value).length := (List.getElem?_eq_some_iff.1 hb).1
  rw [responseBytes, List.cons_append, List.cons_append, List.getElem?_cons_succ, List.getElem?_cons_succ,
    List.append_assoc, List.getElem?_append_left hlt, hb]

theorem mdoPin_of_driven {s : State} {r : Response} (hr : s.resetN = .high) (h : s.port.mdo = some r) (i : Nat) :
    mdoPin s i = some (mdoBit r i) := by
  rw [mdoPin, if_pos hr, h]
  rfl

theorem mdoBit_of_end (r : Response) {i : Nat} (h : 64 ≤ i) : mdoBit r i = false := by
  rw [mdoBit, List.getD_eq_getElem?_getD, List.getElem?_eq_none (by rw [length_responseBits]; exact h)]
  rfl

/-- The first 56 places of MDO are the bits of the seven bytes. -/
theorem mdoBits_first (r : Response) : (List.range 56).map (mdoBit r) = (responseBytes r).flatMap byteBits := by
  have hlen : ((responseBytes r).flatMap byteBits).length = 56 := length_flatMap_byteBits _
  refine List.ext_getElem? fun n => ?_
  by_cases hn : n < 56
  · have hl : n < ((responseBytes r).flatMap byteBits).length := hlen.symm ▸ hn
    have hb : (responseBits r)[n]? = ((responseBytes r).flatMap byteBits)[n]? := by
      rw [responseBits_eq, List.flatMap_append, List.getElem?_append_left hl]
    rw [List.getElem?_map, List.getElem?_range hn, Option.map_some, mdoBit, List.getD_eq_getElem?_getD, hb,
      List.getElem?_eq_getElem hl]
    rfl
  · rw [List.getElem?_eq_none (by simp; omega), List.getElem?_eq_none (by omega)]

/-- What MDO carries while it is driven (R162, R165). -/
theorem mdoPin_layout {s : State} {r : Response} (hr : s.resetN = .high) (h : s.port.mdo = some r) :
    (∀ i : Fin 8, mdoPin s i.val = some ((statusByte r.status).getMsbD i.val) ∧
      mdoPin s (8 + i.val) = some (r.echo.getMsbD i.val) ∧
      mdoPin s (48 + i.val) = some (r.flags.getMsbD i.val) ∧
      ∀ l : List Bool, l.map some = (List.range 56).map (mdoPin s) →
        mdoPin s (56 + i.val) = some ((checkByte l).getMsbD i.val)) ∧
    (∀ i : Fin 32, mdoPin s (16 + i.val) = some (r.value.getMsbD i.val)) ∧
    ∀ i, 64 ≤ i → mdoPin s i = some false := by
  have hpin := mdoPin_of_driven hr h
  refine ⟨fun i => ⟨?_, ?_, ?_, fun l hl => ?_⟩, fun i => ?_, fun i hi => ?_⟩
  · have hb := mdoBit_of_byte (r := r) (j := 0) i.isLt rfl
    rw [Nat.mul_zero, Nat.zero_add] at hb
    rw [hpin, hb]
  · rw [hpin, mdoBit_of_byte (r := r) (j := 1) i.isLt rfl]
  · rw [hpin, mdoBit_of_byte (r := r) (j := 6) i.isLt rfl]
  · have hbits : l = (responseBytes r).flatMap byteBits := by
      rw [← mdoBits_first, ← (Option.some_injective Bool).list_map.eq_iff, hl, List.map_map]
      exact List.map_congr_left fun n _ => hpin n
    rw [hpin, mdoBit_of_byte (r := r) (j := 7) i.isLt rfl, hbits]
  · rw [hpin, mdoBit_of_value r i.isLt]
  · rw [hpin, mdoBit_of_end r hi]

/-- Settles O41. -/
theorem framesOpenAndFail : Obligations.FramesOpenAndFail := by
  refine ⟨fun bits s hr => ⟨fun hp => ?_, exec_frameOpen_of_not_idle hr, fun hp hlen e hshort hlong => ?_,
    fun hp c o f v3 v2 v1 v0 k hb hk => ?_, exec_frameClose_of_ignoring bits hr⟩, ⟨rfl, fun bits b => ?_⟩,
    fun s r => mdoPin_layout, by decide⟩
  · exact exec_frameOpen_of_idle ⟨hr, by simp [hp]⟩ hp
  · exact exec_frameClose_of_framing ⟨hr, hp⟩ (judge_of_length hlen hshort hlong)
  · exact exec_frameClose_of_check ⟨hr, hp⟩ (judge_of_check c o f v3 v2 v1 v0 k hb hk)
  · rw [checkByte, List.foldl_append]
    rfl

/-! ### The command of a good frame (R163, R167) -/

theorem SameNext.of_exec {c d : Instr} {s : State} (h : exec c s = exec d s) (hd : ∃ t, exec d s = .next t) :
    SameNext c d s := by
  obtain ⟨t, ht⟩ := hd
  exact ⟨t, h.trans ht, ht⟩

/-- The close of a command frame runs the frame's command. -/
theorem exec_frameClose_commandBits (c o f : Byte) (v : Word32) (s : State) :
    exec (.frameClose (commandBits c o f v)) s = manageWhole c o f v (runFrame c o f v) (afterFrame c s) s := by
  rw [exec_frameClose, execFrameClose, judge_commandBits]
  rfl

/-- A code other than that of RESET-REGULATOR runs its own effect, with what follows it. -/
theorem exec_frameClose_of_code {c : Byte} (hc : c ≠ 0x3F) (o f : Byte) (v : Word32) (s : State) :
    exec (.frameClose (commandBits c o f v)) s = manage c o f v (runCode c o f v) s := by
  rw [exec_frameClose_commandBits, runFrame, if_neg hc, afterFrame, if_neg hc]
  rfl

theorem exec_frameClose_of_reset (o f : Byte) (v : Word32) (s : State) :
    exec (.frameClose (commandBits 0x3F o f v)) s = exec (.resetRegulator o f v) s := by
  rw [exec_frameClose_commandBits, runFrame, if_pos rfl, afterFrame, if_pos rfl]
  rfl

theorem byte_of_toNat {b : Byte} {n : Nat} (h : b.toNat = n) : b = BitVec.ofNat 8 n := by
  rw [← h, BitVec.ofNat_toNat, BitVec.setWidth_eq]

theorem runCode_of_unknown {c : Byte} (o f : Byte) (v : Word32) (h : c ∉ ([0x00, 0x01, 0x02, 0x10, 0x11, 0x12, 0x13, 0x14,
    0x20, 0x21, 0x22, 0x30, 0x31, 0x32, 0x3F] : List Byte)) :
    runCode c o f v = fun s => (s, refusal .badCommand) := by
  unfold runCode
  split
  case h_15 => rfl
  all_goals
    next e =>
      rw [byte_of_toNat e] at h
      exact absurd h (by decide)

/-- Settles O42. -/
theorem frameCloseRunsItsCommand : Obligations.FrameCloseRunsItsCommand := by
  intro c o f v s
  have hrow {d : Instr} (hd : ∀ p, d ≠ .upstreamResponseChoice p)
      (h : exec (.frameClose (commandBits c o f v)) s = exec d s) :
      SameNext (.frameClose (commandBits c o f v)) d s := .of_exec h (exists_exec s hd)
  refine ⟨?_, ?_, ?_, ?_, ?_, ?_, ?_, ?_, ?_, ?_, ?_, ?_, ?_, ?_, ?_, fun hs hc => ?_⟩
  case refine_15 =>
    rintro rfl
    exact hrow nofun (exec_frameClose_of_reset o f v s)
  case refine_16 =>
    have h3F : c ≠ 0x3F := fun e => hc (by rw [e]; decide)
    rw [exec_frameClose_of_code h3F, runCode_of_unknown o f v hc]
    exact manage_refused s hs rfl
  all_goals
    rintro rfl
    exact hrow nofun (exec_frameClose_of_code (by decide) o f v s)

/-! ### WRITE_FIELD (R170) -/

theorem exec_writeField (o f : Byte) (v : Word32) (s : State) : exec (.writeField o f v) s = execWriteField o f v s := rfl

theorem runWriteField_of_item {o f : Byte} {item : Item} (v : Word32) (h : writableItem o f = .ok item) :
    runWriteField o f v = runItemWrite item v := by
  funext s
  rw [runWriteField, h]

theorem exec_writeField_of_item {o f : Byte} {item : Item} (v : Word32) (s : State) (h : writableItem o f = .ok item) :
    exec (.writeField o f v) s = manage 0x02 o f v (runItemWrite item v) s := by
  rw [exec_writeField, execWriteField, runWriteField_of_item v h]

theorem exec_writeField_of_refused {o f : Byte} {st : Status} (v : Word32) {s : State} (hs : Listening s)
    (h : writableItem o f = .error st) : ∃ t, exec (.writeField o f v) s = .next t ∧ RefusedWith s t 0x02 st := by
  have hr : runWriteField o f v s = (s, refusal st) := by rw [runWriteField, h]
  exact manage_refused s hs hr

theorem writableItem_of_class {o f : Byte} {n : ClassId} {i : Fin 14} (ho : o.toNat = n.val) (hf : f.toNat = i.val) :
    writableItem o f = .ok (.staging n i) := by
  simp [writableItem, classObject, ho, hf]

theorem writableItem_of_line (line : Line) (x : FilterSetting) :
    writableItem (lineObject line) (settingField x) = .ok (.filterSetting line x) := by
  cases line <;> cases x <;> rfl

theorem writableItem_of_enable {f : Byte} {kind : Fin 11} (hf : f.toNat = kind.val) :
    writableItem 0x36 f = .ok (.enable kind) := by
  simp [writableItem, classObject, hf]

/-- A read-only item and a field that names none (R170). -/
theorem writableItem_badField {o f : Byte} (h : (o.toNat < 16 ∧ 14 ≤ f.toNat) ∨ (o = 0x30 ∧ f ≠ 0x00) ∨
    ((o = 0x31 ∨ o = 0x32) ∧ 2 ≤ f.toNat) ∨ o = 0x34 ∨ (o = 0x35 ∧ f ≠ 0x11) ∨ (o = 0x36 ∧ 11 ≤ f.toNat) ∨ o = 0x37 ∨
    o = 0x3F) : writableItem o f = .error .badField := by
  have hline (line : Line) (hf : 2 ≤ f.toNat) : filterItem line f.toNat = .error .badField := by
    unfold filterItem
    split <;> first | omega | rfl
  rcases h with ⟨ho, hf⟩ | ⟨rfl, hf⟩ | ⟨rfl | rfl, hf⟩ | rfl | ⟨rfl, hf⟩ | ⟨rfl, hf⟩ | rfl | rfl
  · simp [writableItem, classObject, ho, Nat.not_lt.2 hf]
  · exact if_neg hf
  · exact hline .frame hf
  · exact hline .gate hf
  · rfl
  · exact if_neg hf
  · exact dif_neg (Nat.not_lt.2 hf)
  · rfl
  · rfl

/-- An object outside the catalogue (R171). -/
theorem writableItem_badObject {s : State} {o : Byte} (f : Byte) (h : catalogue s o = none) :
    writableItem o f = .error .badObject := by
  unfold catalogue at h
  split at h
  · cases h
  · next ho =>
    rw [writableItem, classObject_of_ge ho]
    dsimp only at h ⊢
    split
    case h_11 => rfl
    all_goals
      next hobject =>
        rw [hobject] at h
        cases h

/-- Settles O44, by the item that the object and the field name. -/
theorem writeFieldIsItsRow : Obligations.WriteFieldIsItsRow := by
  intro o f v s
  have hrow {d : Instr} {item : Item} (hd : ∀ p, d ≠ .upstreamResponseChoice p) (hi : writableItem o f = .ok item)
      (h : manage 0x02 o f v (runItemWrite item v) s = exec d s) : SameNext (.writeField o f v) d s :=
    .of_exec ((exec_writeField_of_item v s hi).trans h) (exists_exec s hd)
  refine ⟨fun n i ho hf => ?_, ?_, ?_, fun line ho => ?_, ?_, ?_, fun kind ho hf => ?_,
    fun hs h => exec_writeField_of_refused v hs (writableItem_badField h),
    fun hs h => exec_writeField_of_refused v hs (writableItem_badObject f h)⟩
  · refine hrow nofun (writableItem_of_class ho hf) ?_
    rw [byte_of_toNat ho, byte_of_toNat hf]
    rfl
  · rintro rfl
    exact hrow nofun rfl rfl
  · rintro rfl rfl
    exact hrow nofun rfl rfl
  · have ho : o = lineObject line := ho.trans (by cases line <;> rfl)
    subst ho
    constructor
    · rintro rfl
      exact hrow nofun (writableItem_of_line line .sampleInterval) rfl
    · rintro rfl
      exact hrow nofun (writableItem_of_line line .agreementCount) rfl
  · rintro rfl
    exact hrow nofun rfl rfl
  · rintro rfl rfl
    exact hrow nofun rfl rfl
  · subst ho
    refine hrow nofun (writableItem_of_enable hf) ?_
    rw [byte_of_toNat hf]
    rfl

end Sys2Proof.Machine
end

section
/-! RESET_REGULATOR (R172): what a new decision and a grant leave of the state, and what may follow the command's own
effects. -/

namespace Sys2Proof.Machine

/-! ### What a decision leaves -/

/-- The state without what a decision can change. -/
def eraseDecision (s : State) : State :=
  { s with classes := pinResetState.classes, up := .free, through := none, refused := none, upResp := .free }

/-- The fields that a decision leaves, of those that are read after one. -/
theorem fields_of_eraseDecision {s t : State} (h : eraseDecision t = eraseDecision s) :
    t.resetN = s.resetN ∧ t.gflags = s.gflags ∧ t.quiesce = s.quiesce ∧ t.down = s.down ∧ t.entries = s.entries :=
  ⟨(congrArg State.resetN h :), (congrArg State.gflags h :), (congrArg State.quiesce h :), (congrArg State.down h :),
    (congrArg State.entries h :)⟩

section
variable (s : State)

theorem chooseGenerated_leaves : eraseDecision (chooseGenerated s) = eraseDecision s := by
  rcases chooseGenerated_cases s with e | ⟨-, _, _, _, e⟩ <;> rw [e]
  rfl

theorem attemptJoin_leaves (c : ClassId) (r : Request) : eraseDecision (attemptJoin c r s) = eraseDecision s := by
  unfold attemptJoin
  split
  · rfl
  · dsimp only
    split
    · exact chooseGenerated_leaves _
    · rfl

theorem overBudgetStep_leaves (c : ClassId) (r : Request) : eraseDecision (overBudgetStep c r s) = eraseDecision s := by
  unfold overBudgetStep
  dsimp only
  split
  · exact attemptJoin_leaves _ c r
  · rfl
  · exact chooseGenerated_leaves _

theorem decideClassed_leaves (c : ClassId) (r : Request) : eraseDecision (decideClassed c r s) = eraseDecision s := by
  unfold decideClassed
  dsimp only
  split
  · exact attemptJoin_leaves s c r
  · split
    · split
      · rfl
      · exact attemptJoin_leaves s c r
    · split
      · exact attemptJoin_leaves s c r
      · split
        · rfl
        · exact overBudgetStep_leaves s c r

/-- A decision changes the classes, the request's channel and slots, and the response that the free arbiter chooses. -/
theorem decidePresented_leaves : eraseDecision (decidePresented s) = eraseDecision s := by
  rcases decidePresented_cases s with e | ⟨r, c, -, -, e⟩ <;> rw [e]
  unfold decideRequest
  split
  · rfl
  · exact decideClassed_leaves s _ r

theorem redecide_leaves : eraseDecision (redecide s) = eraseDecision s := by
  rcases redecide_cases s with e | e <;> rw [e]
  exact decidePresented_leaves s

end

/-! ### What a grant leaves -/

/-- The state without what a grant can change while the device does not drain. -/
def eraseGrant (s : State) : State :=
  { eraseDecision s with rrPos := 0, altMark := .throughSlot, down := none, entries := pinResetState.entries }

theorem eraseGrant_of_decision {s t : State} (h : eraseDecision t = eraseDecision s) : eraseGrant t = eraseGrant s := by
  rw [eraseGrant, h, eraseGrant]

theorem quiesce_of_eraseGrant {s t : State} (h : eraseGrant t = eraseGrant s) : t.quiesce = s.quiesce :=
  (congrArg State.quiesce h :)

theorem gflags_of_eraseGrant {s t : State} (h : eraseGrant t = eraseGrant s) : t.gflags = s.gflags :=
  (congrArg State.gflags h :)

/-- The test of the drain does nothing outside QUIESCING (R157). -/
theorem testDrain_of_not_quiescing {s : State} (h : s.quiesce ≠ .quiescing) : testDrain s = s :=
  testDrain_of_not fun hd => h hd.1

theorem mapCls_leaves (s : State) (f : ClassId → ClassRec → ClassRec) : eraseDecision (s.mapCls f) = eraseDecision s := by
  simp only [eraseDecision, State.mapCls]

theorem atAllClasses_leaves (s : State) (f : ClassId → ClassRec → ClassRec × Bool) :
    eraseDecision (atAllClasses f s) = eraseDecision s := by
  unfold atAllClasses
  split
  · rw [redecide_leaves, deliverAll_eq, mapCls_leaves]
  · rw [deliverAll_eq, mapCls_leaves]

theorem takeThrough_leaves (k : EntryIndex) (a : Accepted) (s : State) : eraseGrant (takeThrough k a s) = eraseGrant s := by
  simp only [eraseGrant, eraseDecision, takeThrough, forwardOut, State.setEntry]

theorem takeHead_leaves (c : ClassId) (k : EntryIndex) (a : Accepted) (rest : List Accepted) (s : State) :
    eraseGrant (takeHead c k a rest s) = eraseGrant s := by
  simp only [eraseGrant, eraseDecision, takeHead, forwardOut, State.setEntry, State.updCls, State.setCls]

theorem grantThrough_leaves {s : State} (h : s.quiesce ≠ .quiescing) : eraseGrant (grantThrough s) = eraseGrant s := by
  unfold grantThrough
  split
  · next a k _ _ =>
    split
    · have hleft : eraseGrant (atAllClasses (fun _ => forwardNotice s.gate.level a.cls) (takeThrough k a s)) = eraseGrant s := by
        rw [eraseGrant_of_decision (atAllClasses_leaves _ _), takeThrough_leaves]
      rwa [testDrain_of_not_quiescing (quiesce_of_eraseGrant hleft ▸ h)]
    · rfl
  · rfl

theorem grantQueues_leaves {s : State} (h : s.quiesce ≠ .quiescing) : eraseGrant (grantQueues s) = eraseGrant s := by
  unfold grantQueues
  split
  · next c k _ _ =>
    split
    · next a rest _ =>
      split
      · have hleft : eraseGrant (redecide (deliverAll (fun _ => forwardNotice s.gate.level (some c))
            (takeHead c k a rest s))) = eraseGrant s := by
          rw [eraseGrant_of_decision (redecide_leaves _), deliverAll_eq, eraseGrant_of_decision (mapCls_leaves _ _),
            takeHead_leaves]
        rwa [testDrain_of_not_quiescing (quiesce_of_eraseGrant hleft ▸ h)]
      · rfl
    · rfl
  · rfl

theorem grantNext_leaves {s : State} (h : s.quiesce ≠ .quiescing) : eraseGrant (grantNext s) = eraseGrant s := by
  rcases grantNext_cases s with e | e <;> rw [e]
  · exact grantThrough_leaves h
  · exact grantQueues_leaves h

/-! ### Where TABLE-FULL is raised (R99) -/

theorem noteTableFull_of_brings {s t : State} (h : bringsTableFull s t = true) :
    noteTableFull s t = raiseGlobal .tableFull t :=
  if_pos h

theorem noteTableFull_of_not_brings {s t : State} (h : ¬ bringsTableFull s t = true) : noteTableFull s t = t := if_neg h

theorem lowestFree_raiseGlobal (kind : GlobalKind) (s : State) : lowestFree (raiseGlobal kind s) = lowestFree s :=
  lowestFree_congr (State.raiseGlobal_entries s kind)

theorem headReady_raiseGlobal (kind : GlobalKind) (s : State) (c : ClassId) :
    headReady (raiseGlobal kind s) c = headReady s c := by
  cases kind <;> rfl

theorem grantWaits_raiseGlobal (kind : GlobalKind) (s : State) : grantWaits (raiseGlobal kind s) = grantWaits s := by
  cases kind <;> rfl

/-- What R99 asks for. -/
theorem bringsTableFull_iff (s t : State) : bringsTableFull s t = true ↔ lowestFree t = none ∧ grantWaits t = true ∧
    (lowestFree s ≠ none ∨ (s.through = none ∧ t.through ≠ none) ∨ ∃ n, headReady t n = true ∧ headReady s n = false) := by
  simp [bringsTableFull, and_assoc, or_assoc, Option.isSome_iff_ne_none, and_comm (a := ¬ t.through = none)]

/-- Where no entry is FREE no choice follows. -/
theorem follow_of_full {s u : State} (h : lowestFree u = none) : follow s u = u :=
  follow_idle (.inr fun ho => (lowestFree_ne_none u).2 ho.2.1 h)

/-! ### RESET_REGULATOR -/

theorem exec_resetRegulator (o f : Byte) (v : Word32) (s : State) :
    exec (.resetRegulator o f v) s = execResetRegulator o f v s := rfl

theorem regulatorReset_cls (s : State) (n : ClassId) : (regulatorReset s).cls n = regulatorResetClass (s.cls n) := by
  have h : (regulatorReset s).cls n = (s.mapCls fun _ k => regulatorResetClass k).cls n := rfl
  rw [h, State.cls_mapCls]

theorem regulatorReset_eq (s : State) : regulatorReset s = { s with
    classes := (regulatorReset s).classes
    snapshot := none
    log := []
    captureView := none
    lost := 0
    gflags := noGlobalFlags
    quiesce := .normal
    flush := if s.quiesce = .normal then s.flush else false } := by
  simp only [regulatorReset, State.mapCls]

/-- No flag is set after RESET_REGULATOR's own effects (R153). -/
theorem alertActive_regulatorReset (s : State) : alertActive (regulatorReset s) = false := by
  rw [Bool.eq_false_iff, ne_eq, alertActive_iff, alertCause_iff]
  rintro ⟨-, ⟨n, kind, hflag, -⟩ | ⟨kind, hflag, -⟩⟩
  · rw [regulatorReset_cls] at hflag
    cases kind <;> cases hflag
  · have hclear : (regulatorReset s).gflags = noGlobalFlags := rfl
    rw [hclear] at hflag
    cases kind <;> cases hflag

theorem responseFlags_regulatorReset (s : State) : responseFlags (regulatorReset s) = 0x00 := by
  have hq : (regulatorReset s).quiesce = .normal := rfl
  rw [responseFlags, alertActive_regulatorReset, if_pos hq]
  rfl

/-- The command leaves what follows its own effects, and the answer that was formed before (R172). -/
theorem exec_resetRegulator_listening (o f : Byte) (v : Word32) {s : State} (hs : Listening s) :
    exec (.resetRegulator o f v) s = .next { afterReset s (regulatorReset s) with
      port := closedPort (commandBits 0x3F o f v) 0x3F okay (regulatorReset s) } := by
  obtain ⟨hhigh, hphase⟩ := hs
  rw [exec_resetRegulator, execResetRegulator, manageWhole, if_pos hhigh, closeFrame, if_neg hphase]
  rfl

/-- The decision that RESET_REGULATOR taken in the state `s` causes, before the tests after it. -/
def resetDecided (s : State) : State := decideAtReset (decide (s.quiesce ≠ .normal)) (regulatorReset s)

theorem resetDecided_leaves (s : State) : eraseDecision (resetDecided s) = eraseDecision (regulatorReset s) := by
  unfold resetDecided decideAtReset
  split
  · exact decidePresented_leaves _
  · exact redecide_leaves _

theorem resetDecided_of_normal {s : State} (h : s.quiesce = .normal) :
    resetDecided s = redecide (regulatorReset s) := by
  simp [resetDecided, decideAtReset, h]

theorem resetDecided_of_quiesce {s : State} (h : s.quiesce ≠ .normal) :
    resetDecided s = decidePresented (regulatorReset s) := by
  simp [resetDecided, decideAtReset, h]

theorem afterReset_follows {s : State} (h : s.resetN = .high) :
    Follows s (resetDecided s) (afterReset s (regulatorReset s)) := by
  obtain ⟨hreset, -⟩ := fields_of_eraseDecision (resetDecided_leaves s)
  have hhigh : (resetDecided s).resetN = .high := by
    rw [hreset, regulatorReset_eq]
    exact h
  exact noted_follows s (f := fun s' => decideAtReset (decide (s'.quiesce ≠ .normal)) (regulatorReset s)) hhigh

/-- The flags after the happening: TABLE-FULL at most, with the cause that R99 asks for. -/
structure FlagsAfterReset (s t : State) : Prop where
  others : t.gflags = { noGlobalFlags with tableFull := t.gflags.tableFull }
  cause : t.gflags.tableFull = true → lowestFree t = none ∧ grantWaits t = true
  news : t.gflags.tableFull = true →
    (s.down = none ∧ t.down ≠ none) ∨ (s.through = none ∧ t.through ≠ none) ∨
      ∃ n, headReady t n = true ∧ headReady s n = false

theorem FlagsAfterReset.of_clear {s t : State} (h : t.gflags = noGlobalFlags) : FlagsAfterReset s t := by
  have hoff : t.gflags.tableFull ≠ true := by rw [h]; nofun
  exact ⟨by rw [h], fun hf => absurd hf hoff, fun hf => absurd hf hoff⟩

/-- Of the flags, what follows RESET_REGULATOR's effects raises TABLE-FULL at most: where a decision readies a head or fills
the through slot, or where a grant takes the last FREE entry. -/
theorem afterReset_flags (s : State) : FlagsAfterReset s (afterReset s (regulatorReset s)) := by
  obtain ⟨-, hclear, hquiesce, hdown, hentries⟩ := fields_of_eraseDecision (resetDecided_leaves s)
  obtain ⟨hzero, hnormal, hdown₀, hentries₀⟩ : (regulatorReset s).gflags = noGlobalFlags ∧
      (regulatorReset s).quiesce = .normal ∧ (regulatorReset s).down = s.down ∧
      (regulatorReset s).entries = s.entries := by
    rw [regulatorReset_eq]
    exact ⟨rfl, rfl, rfl, rfl⟩
  rw [hzero] at hclear
  rw [hnormal] at hquiesce
  rw [hdown₀] at hdown
  rw [hentries₀] at hentries
  have hafter : afterReset s (regulatorReset s) = follow s (noteTableFull s (resetDecided s)) := rfl
  rw [hafter]
  by_cases hb : bringsTableFull s (resetDecided s) = true
  · obtain ⟨hfull, hwaits, hnews⟩ := (bringsTableFull_iff _ _).1 hb
    have hfull' : lowestFree s = none := (lowestFree_congr hentries).symm.trans hfull
    rw [noteTableFull_of_brings hb, follow_of_full ((lowestFree_raiseGlobal ..).trans hfull)]
    refine ⟨?_, fun _ => ⟨(lowestFree_raiseGlobal ..).trans hfull, (grantWaits_raiseGlobal ..).trans hwaits⟩, fun _ => ?_⟩
    · rw [raiseGlobal, hclear]
    · refine .inr ((hnews.resolve_left fun h => h hfull').imp (fun h => ?_) fun h => ?_)
      · rwa [State.raiseGlobal_through]
      · simpa only [headReady_raiseGlobal] using h
  · rw [noteTableFull_of_not_brings hb]
    rcases follow_cases s (resetDecided s) with e | ⟨-, hopen, e⟩ <;> rw [e]
    · exact .of_clear hclear
    · have hg : (grantNext (resetDecided s)).gflags = noGlobalFlags :=
        (gflags_of_eraseGrant (grantNext_leaves (by rw [hquiesce]; nofun))).trans hclear
      by_cases hb' : bringsTableFull (resetDecided s) (grantNext (resetDecided s)) = true
      · obtain ⟨hfull, hwaits, -⟩ := (bringsTableFull_iff _ _).1 hb'
        rw [noteTableFull_of_brings hb']
        refine ⟨?_, fun _ => ⟨(lowestFree_raiseGlobal ..).trans hfull, (grantWaits_raiseGlobal ..).trans hwaits⟩,
          fun _ => .inl ⟨hdown.symm.trans hopen.1, ?_⟩⟩
        · rw [raiseGlobal, hg]
        · rw [State.raiseGlobal_down]
          exact grantNext_down _ hopen
      · rw [noteTableFull_of_not_brings hb']
        exact .of_clear hg

theorem FlagsAfterReset.with_port {s w : State} (p : Port) (h : FlagsAfterReset s w) :
    FlagsAfterReset s { w with port := p } :=
  ⟨h.others, h.cause, h.news⟩

/-- Settles O54. -/
theorem resetRegulator : Obligations.ResetRegulator := by
  intro o f v s hs
  obtain ⟨p, hp⟩ : ∃ p, p = closedPort (commandBits 0x3F o f v) 0x3F okay (regulatorReset s) := ⟨_, rfl⟩
  obtain ⟨w, hw⟩ : ∃ w, w = afterReset s (regulatorReset s) := ⟨_, rfl⟩
  have hexec := exec_resetRegulator_listening o f v hs
  have hfollows := afterReset_follows hs.1
  have hflags := afterReset_flags s
  rw [← hp, ← hw] at hexec
  rw [← hw] at hfollows hflags
  obtain ⟨hothers, hcause, hnews⟩ := hflags.with_port p
  have hheld : p.held = ⟨.ok, 0x3F, 0, 0x00⟩ := by
    rw [hp, closedPort, responseFlags_regulatorReset]
    rfl
  refine ⟨regulatorReset s, { w with port := p }, hexec, by rw [hp]; rfl, by rw [hp]; rfl, hheld, regulatorReset_eq s,
    fun n => ?_, fun hq => ⟨w, ?_, rfl⟩, fun hq => ⟨w, ?_, rfl⟩, hothers, hcause, fun ht hd hh => ?_⟩
  · rw [regulatorReset_cls]
    rfl
  · rwa [← resetDecided_of_normal hq]
  · rwa [← resetDecided_of_quiesce hq]
  · rw [hothers]
    cases hf : ({ w with port := p } : State).gflags.tableFull with
    | false => rfl
    | true =>
      rcases hnews hf with ⟨h0, h1⟩ | ⟨h0, h1⟩ | ⟨n, h1, h0⟩
      · exact absurd (hd.trans h0) h1
      · exact absurd (ht.trans h0) h1
      · exact absurd (hh n h1) (by simp [h0])

end Sys2Proof.Machine
end

section
/-! A command is one happening, or for TICK and FILTER_EDGE a chain of them. A happening is its own change, the test of R99
and the grant of a choice that the change has opened (`follow`). Here the own changes are described by what they keep, at
the level of the operations: unlike the elementary changes of `Kept`, an operation ends with the choice of the response
arbiter that it opens, and no operation raises TABLE-FULL or takes the downstream request channel. -/

namespace Sys2Proof.Machine

/-! ### The operations -/

/-- The operations of the happenings that TICK and FILTER_EDGE chain. -/
structure KeptOps (P : State → Prop) : Prop extends KeptClasses P where
  decide : ∀ s, P s → P (decidePresented s)
  abandon : ∀ s k f, s.entry k = some f → f.phase = .pending → P s → P (abandonEntry k f s)
  sample : ∀ s line raw, P s → P (s.setFilter line (takeDueSample raw (s.filter line)).1)

/-- The operations of all commands other than the grants, the taking of a forward and a pin reset. -/
structure KeptOwn (P : State → Prop) : Prop extends KeptOps P where
  drain : ∀ s, P s → P (testDrain s)
  offered : ∀ s r, s.up = .free → P s → P { s with up := .presented r none }
  data : ∀ s place n d, s.up = .taking place n → P s → P { storeBeat place d s with up := afterBeat place n }
  respond : ∀ s p, P s → P (arbitrate (presentFirst p s))
  passNext : ∀ s b, P s → P (passNext b s)
  takeGenerated : ∀ s, P s → P (takeGenerated s)
  takeHeld : ∀ s, P s → P (takeHeld s)
  lateBeat : ∀ s b, P s → P (lateBeat b s)
  strayBeat : ∀ s b, P s → P (strayBeat b s)
  map : ∀ s m, P s → P { s with classMap := m }
  port : ∀ s p, P s → P { s with port := p }
  filterSetting : ∀ s line setting v f, setFilterSetting (s.filter line) setting v = some f → P s →
    P (s.setFilter line f)
  tickDiv : ∀ s d, P s → P { s with tickDiv := d }
  edge : ∀ s (k : Fin 7) v, 1 ≤ v → v ≤ Config.intervalMax → edgeFits s.edges k v = true → P s →
    P { s with edges := s.edges.set k.val v k.isLt }
  lostZero : ∀ s, P s → P { s with lost := 0 }
  enables : ∀ s e, P s → P { s with enables := e }
  snapshot : ∀ s v, P s → P { s with snapshot := v }
  pop : ∀ s r rest, s.log = r :: rest → P s → P { s with log := rest, captureView := some r }
  clearGlobal : ∀ s, P s → P { s with gflags := noGlobalFlags }
  quiesceState : ∀ s q b, P s → P { s with quiesce := q, flush := b }
  regulator : ∀ s, P s → P (regulatorReset s)
  releaseReset : ∀ s p, s.resetN = .low → P s → P { s with resetN := .high, port := p }

theorem Kept.ops {P : State → Prop} (h : Kept P) : KeptOps P where
  toKeptClasses := h.toKeptClasses
  decide _ := h.keptDecidePresented
  abandon _ _ _ := h.keptAbandonEntry
  sample := h.sample

theorem Kept.own {P : State → Prop} (h : Kept P) (hm : KeptByMap P) : KeptOwn P where
  toKeptOps := h.ops
  drain _ := h.keptTestDrain
  offered := h.offered
  data := h.data
  respond _ p hs := h.keptArbitrate (h.keptPresentFirst p hs)
  passNext _ := h.keptPassNext
  takeGenerated _ := h.keptTakeGenerated
  takeHeld _ := h.keptTakeHeld
  lateBeat _ := h.keptLateBeat
  strayBeat _ := h.keptStrayBeat
  map := hm
  port := h.port
  filterSetting := h.filterSetting
  tickDiv := h.tickDiv
  edge := h.edge
  lostZero := h.lostZero
  enables := h.enables
  snapshot := h.snapshot
  pop := h.pop
  clearGlobal := h.clearGlobal
  quiesceState := h.quiesceState
  regulator := h.regulator
  releaseReset := h.releaseReset

/-- The operations of a chain lead from `s` to `u`. -/
def OpsChange (s u : State) : Prop := ∀ P, KeptOps P → P s → P u

/-- The operations of one command lead from `s` to `u`. -/
def OwnChange (s u : State) : Prop := ∀ P, KeptOwn P → P s → P u

theorem OwnChange.refl (s : State) : OwnChange s s := fun _ _ h => h

theorem OwnChange.trans {s u v : State} (h : OwnChange s u) (h' : OwnChange u v) : OwnChange s v :=
  fun P hp hs => h' P hp (h P hp hs)

theorem OpsChange.own {s u : State} (h : OpsChange s u) : OwnChange s u := fun P hp => h P hp.toKeptOps

/-! ### The operations at a class -/

namespace KeptOps

variable {P : State → Prop} (h : KeptOps P) {s : State}
include h

theorem keptRedecide (hs : P s) : P (redecide s) := by
  rcases redecide_cases s with e | e <;> rw [e]
  · exact hs
  · exact h.decide s hs

theorem keptRedecideAt (c : ClassId) (hs : P s) : P (redecideAt c s) := by
  rcases redecideAt_cases s c with e | e <;> rw [e]
  · exact hs
  · exact h.decide s hs

theorem keptAtClass {n : ClassId} {f : ClassRec → ClassRec × Bool} (hf : P (s.setCls n (f (s.cls n)).1)) :
    P (atClass n f s) := by
  unfold atClass
  dsimp only
  split
  · exact h.keptRedecideAt n hf
  · exact hf

theorem keptSampleLine (line : Line) (raw : Level) (hs : P s) : P (sampleLine line raw s) := by
  have ht := h.sample s line raw hs
  unfold sampleLine
  dsimp only
  split
  · exact h.owe _ line ht
  · exact ht

theorem keptReachDeadline (k : EntryIndex) (hs : P s) : P (reachDeadline k s) := by
  unfold reachDeadline
  split
  · next f he =>
    split
    · next hp => exact h.abandon s k f he hp.1 hs
    · exact hs
  · exact hs

end KeptOps

section
variable (s : State)

theorem opsChange_classTakesTick (n : ClassId) : OpsChange s (classTakesTick n s) :=
  fun _ h hs => h.keptAtClass (h.takeTick s n _ hs)

theorem opsChange_classTakesCopy (line : Line) (n : ClassId) : OpsChange s (classTakesCopy line n s) :=
  fun _ h hs => h.keptAtClass (h.takeCopy s n line _ _ hs)

theorem opsChange_reachDeadline (k : EntryIndex) : OpsChange s (reachDeadline k s) :=
  fun _ h hs => h.keptReachDeadline k hs

/-! ### The operations of the management commands -/

theorem ownChange_runItemWrite (item : Item) (v : Word32) : OwnChange s (runItemWrite item v s).1 := by
  intro P h hs
  cases item with
  | staging n i =>
    dsimp only [runItemWrite, runStagingWrite]
    split
    · next hv => exact h.staging s n i _ hv hs
    · exact hs
  | mapEntry f =>
    dsimp only [runItemWrite, runClassMapWrite]
    split
    · split
      · unfold redecideByMap
        dsimp only
        split
        · split
          · exact h.map s _ hs
          · exact h.decide _ (h.map s _ hs)
        · exact h.map s _ hs
      · exact hs
    · exact hs
  | divider =>
    dsimp only [runItemWrite, runTickDivWrite]
    split
    · split
      · exact h.tickDiv s _ hs
      · exact hs
    · exact hs
  | filterSetting line setting =>
    dsimp only [runItemWrite, runFilterWrite]
    split
    · next f hf =>
      split
      · exact hs
      · exact h.filterSetting s line setting v f hf hs
    · exact hs
  | histogramEdge f =>
    dsimp only [runItemWrite, runEdgeWrite]
    split
    · next hf =>
      split
      · exact hs
      · next hr =>
        split
        · exact hs
        · next he =>
          split
          · exact h.edge s ⟨f.toNat, hf⟩ v.toNat (by omega) (by omega) (by simpa using he) hs
          · exact hs
    · exact hs
  | lostCount =>
    dsimp only [runItemWrite, runLostWrite]
    split
    · exact h.lostZero s hs
    · exact hs
  | enable kind =>
    dsimp only [runItemWrite, runEnableWrite]
    split
    · exact h.enables s _ hs
    · split
      · exact h.enables s _ hs
      · exact hs

theorem ownChange_runWriteField (o f : Byte) (v : Word32) : OwnChange s (runWriteField o f v s).1 := by
  unfold runWriteField
  split
  · exact ownChange_runItemWrite s _ v
  · exact .refl s

theorem ownChange_onClass (o : Byte) {run : ClassId → State × Answer} (h : ∀ n, OwnChange s (run n).1) :
    OwnChange s (onClass o s run).1 := by
  unfold onClass
  split
  · exact h _
  · exact .refl s

theorem ownChange_runCommit (o : Byte) : OwnChange s (runCommit o s).1 := by
  refine ownChange_onClass s o fun n P h hs => ?_
  unfold commitAt
  split
  · exact hs
  · next hn => exact h.keptAtClass (h.commit s n (by simpa using hn) hs)

theorem ownChange_runDiscard (o : Byte) : OwnChange s (runDiscard o s).1 := by
  refine ownChange_onClass s o fun n P h hs => ?_
  unfold discardAt
  split
  · exact h.discard s n hs
  · exact hs

theorem ownChange_runSetRepeat (o : Byte) (v : Word32) : OwnChange s (runSetRepeat o v s).1 := by
  refine ownChange_onClass s o fun n P h hs => ?_
  unfold setRepeatAt
  split
  · exact h.setRepeat s n _ hs
  · split
    · exact h.setRepeat s n _ hs
    · exact hs

theorem ownChange_runStart (o : Byte) : OwnChange s (runStart o s).1 := by
  refine ownChange_onClass s o fun n P h hs => ?_
  unfold startAt
  split
  · next hn => exact h.keptAtClass (f := fun k => (startClass s.gate.level k, true)) (h.start s n _ hn hs)
  · exact hs

theorem ownChange_runStop (o : Byte) : OwnChange s (runStop o s).1 := by
  refine ownChange_onClass s o fun n P h hs => ?_
  unfold stopAt
  split
  · exact hs
  · exact h.keptAtClass (f := fun k => (stopClass k, true)) (h.stop s n hs)

theorem ownChange_runAbandon (o : Byte) : OwnChange s (runAbandon o s).1 := by
  intro P h hs
  unfold runAbandon
  split
  · unfold abandonAt
    split
    · next f he =>
      split
      · next hp => exact h.abandon s _ f he hp hs
      · exact hs
    · exact hs
  · exact hs

theorem ownChange_runSnapshot (o : Byte) (v : Word32) : OwnChange s (runSnapshot o v s).1 := by
  refine ownChange_onClass s o fun n P h hs => ?_
  unfold snapshotAt takeSnapshot
  split
  · exact h.snapshot s _ hs
  · split
    · exact h.live _ n _ (h.snapshot s _ hs)
    · exact hs

theorem ownChange_runPopCapture (o : Byte) : OwnChange s (runPopCapture o s).1 := by
  intro P h hs
  unfold runPopCapture
  split
  · split
    · next r rest hl => exact h.pop s r rest hl hs
    · exact hs
  · exact hs

theorem ownChange_runReadEvents (o : Byte) : OwnChange s (runReadEvents o s).1 := by
  intro P h hs
  unfold runReadEvents
  split
  · exact h.clearFlags s _ hs
  · split
    · exact h.clearGlobal s hs
    · exact hs

theorem ownChange_runQuiesce (v : Word32) : OwnChange s (runQuiesce v s).1 := by
  intro P h hs
  unfold runQuiesce
  split
  · split
    · exact h.drain _ (h.quiesceState s _ _ hs)
    · exact hs
  · exact hs

theorem ownChange_runResume : OwnChange s (runResume s).1 := by
  intro P h hs
  unfold runResume
  split
  · exact hs
  · exact h.decide _ (h.quiesceState s _ _ hs)

/-- What every code of a frame other than that of RESET-REGULATOR does. -/
theorem ownChange_runCode (code o f : Byte) (v : Word32) : OwnChange s (runCode code o f v s).1 := by
  rcases runCode_cases code o f v with e | e | e | e | e | e | e | e | e | e | e | e | e | e | e <;> rw [e]
  · exact .refl s
  · exact .refl s
  · exact ownChange_runWriteField s o f v
  · exact ownChange_runCommit s o
  · exact ownChange_runDiscard s o
  · exact ownChange_runStart s o
  · exact ownChange_runStop s o
  · exact ownChange_runSetRepeat s o v
  · exact ownChange_runSnapshot s o v
  · exact ownChange_runPopCapture s o
  · exact ownChange_runReadEvents s o
  · exact ownChange_runAbandon s o
  · exact ownChange_runQuiesce s v
  · exact ownChange_runResume s
  · exact .refl s

theorem ownChange_resetDecided : OwnChange s (resetDecided s) := by
  intro P h hs
  have hr := h.regulator s hs
  unfold resetDecided decideAtReset
  split
  · exact h.decide _ hr
  · exact h.keptRedecide hr

/-! ### One happening -/

/-- One happening, with what a management command leaves in the port. -/
def Happened (t : State) : Prop := ∃ u p, OwnChange s u ∧ t = { follow s (noteTableFull s u) with port := p }

theorem happened_self : Happened s s := by
  refine ⟨s, s.port, .refl s, ?_⟩
  rw [noteTableFull_self, follow_self]

theorem happened_port (p : Port) : Happened s { s with port := p } := by
  refine ⟨s, p, .refl s, ?_⟩
  rw [noteTableFull_self, follow_self]

variable {s} {t : State}

theorem happened_of_happening {f : State → State} (hf : OwnChange s (f s)) (e : happening s f = .next t) :
    Happened s t := by
  rcases happening_cases s t e with rfl | rfl
  · exact happened_self t
  · exact ⟨f s, (noted f s).port, hf, rfl⟩

theorem happened_of_manage {code o f : Byte} {v : Word32} {run : State → State × Answer} (hf : OwnChange s (run s).1)
    (e : manage code o f v run s = .next t) : Happened s t := by
  rcases manage_cases s t e with rfl | ⟨p, rfl⟩ | ⟨p, rfl⟩
  · exact happened_self t
  · exact happened_port s p
  · exact ⟨(run s).1, p, hf, rfl⟩

theorem happened_of_reset {o f : Byte} {v : Word32} (e : execResetRegulator o f v s = .next t) : Happened s t := by
  rcases manageWhole_cases s t e with rfl | ⟨p, rfl⟩ | ⟨p, rfl⟩
  · exact happened_self t
  · exact happened_port s p
  · exact ⟨resetDecided s, p, ownChange_resetDecided s, rfl⟩

theorem happened_of_closeFrame {bits : List Bool} {echo : Byte} {run : State → State × Answer} {rest : State → State}
    (h : ∀ p, Happened s { rest (run s).1 with port := p }) : Happened s (closeFrame bits echo run rest s) := by
  unfold closeFrame
  split
  · exact happened_port s _
  · exact h _

theorem happened_of_frameClose {bits : List Bool} (e : execFrameClose bits s = .next t) : Happened s t := by
  unfold execFrameClose at e
  split at e
  · split at e <;> cases e
    · exact happened_of_closeFrame fun p => happened_port s p
    · exact happened_of_closeFrame fun p => happened_port s p
    · next code o f v _ =>
      refine happened_of_closeFrame fun p => ?_
      unfold runFrame afterFrame
      split
      · exact ⟨resetDecided s, p, ownChange_resetDecided s, rfl⟩
      · exact ⟨(runCode code o f v s).1, p, ownChange_runCode s code o f v, rfl⟩
  · cases e
    exact happened_self s

/-- The commands that are a chain of happenings, or that take or free the downstream request channel, or reset it. -/
def chainsOrForwards : Instr → Prop
  | .tick _ _ _ => True
  | .filterEdge _ _ => True
  | .grantThroughSlot => True
  | .grantHead => True
  | .downstreamRequestTaken => True
  | .pinReset => True
  | _ => False

/-- Every other command is one happening. -/
theorem happened_of_exec {c : Instr} (hc : ¬ chainsOrForwards c) (e : exec c s = .next t) : Happened s t := by
  cases c <;> dsimp only [exec] at e
  case tick => exact absurd trivial hc
  case filterEdge => exact absurd trivial hc
  case grantThroughSlot => exact absurd trivial hc
  case grantHead => exact absurd trivial hc
  case downstreamRequestTaken => exact absurd trivial hc
  case pinReset => exact absurd trivial hc
  case periodBoundary n => exact happened_of_happening (opsChange_classTakesTick s n).own e
  case admissionDecision offered =>
    refine happened_of_happening (f := fun s => decideUndecided (offerHeader offered s)) (fun P h hs => ?_) e
    have h1 : P (offerHeader offered s) := by
      unfold offerHeader
      split
      · next r hu => exact h.offered s r hu hs
      · exact hs
    unfold decideUndecided
    split
    · exact h.decide _ h1
    · exact h1
  case upstreamResponseChoice p =>
    unfold execUpstreamResponseChoice at e
    split at e
    · cases e
    · exact happened_of_happening (f := fun s => arbitrate (presentFirst p s)) (fun P h hs => h.respond s p hs) e
  case liveResponseBeat b => exact happened_of_happening (fun P h hs => h.passNext s b hs) e
  case deadline k => exact happened_of_happening (opsChange_reachDeadline s k).own e
  case lateResponse b => exact happened_of_happening (fun P h hs => h.lateBeat s b hs) e
  case strayResponse b => exact happened_of_happening (fun P h hs => h.strayBeat s b hs) e
  case generatedResponseBeat => exact happened_of_happening (fun P h hs => h.takeGenerated s hs) e
  case quiesced => exact happened_of_happening (fun P h hs => h.drain s hs) e
  case frameClose => exact happened_of_frameClose e
  case nop => exact happened_of_manage (.refl s) e
  case readField => exact happened_of_manage (.refl s) e
  case writeField => exact happened_of_manage (ownChange_runWriteField s _ _ _) e
  case stagingWrite n i v => exact happened_of_manage (ownChange_runItemWrite s (.staging n i) v) e
  case classMapWrite f v => exact happened_of_manage (ownChange_runItemWrite s (.mapEntry f) v) e
  case tickDivWrite v => exact happened_of_manage (ownChange_runItemWrite s .divider v) e
  case filterSettingsWrite line x v => exact happened_of_manage (ownChange_runItemWrite s (.filterSetting line x) v) e
  case histogramEdgeWrite f v => exact happened_of_manage (ownChange_runItemWrite s (.histogramEdge f) v) e
  case lostCountWrite v => exact happened_of_manage (ownChange_runItemWrite s .lostCount v) e
  case alertEnableWrite kind v => exact happened_of_manage (ownChange_runItemWrite s (.enable kind) v) e
  case commit => exact happened_of_manage (ownChange_runCommit s _) e
  case discardPending => exact happened_of_manage (ownChange_runDiscard s _) e
  case setRepeat => exact happened_of_manage (ownChange_runSetRepeat s _ _) e
  case start => exact happened_of_manage (ownChange_runStart s _) e
  case stop => exact happened_of_manage (ownChange_runStop s _) e
  case abandon => exact happened_of_manage (ownChange_runAbandon s _) e
  case snapshot => exact happened_of_manage (ownChange_runSnapshot s _ _) e
  case popCapture => exact happened_of_manage (ownChange_runPopCapture s _) e
  case readEvents => exact happened_of_manage (ownChange_runReadEvents s _) e
  case quiesce => exact happened_of_manage (ownChange_runQuiesce s _) e
  case resume => exact happened_of_manage (ownChange_runResume s) e
  case resetRegulator => exact happened_of_reset e
  case lastBeatTakenUpstream => exact happened_of_happening (fun P h hs => h.takeHeld s hs) e
  case upstreamWriteDataBeat d =>
    refine happened_of_happening (fun P h hs => ?_) e
    unfold takeDataBeat
    split
    · next place n hu => exact h.data s place n d hu hs
    · exact hs
  case resetNRelease f g m =>
    unfold execResetNRelease at e
    cases e
    split
    · next hl =>
      refine ⟨releaseReset f g m s, (noted (releaseReset f g m) s).port, fun P h hs => ?_, rfl⟩
      exact h.keptSampleLine _ _ (h.keptSampleLine _ _ (h.releaseReset s _ hl hs))
    · exact happened_self s
  case frameOpen => exact happened_of_happening (fun P h hs => h.port s _ hs) e

end

/-! ### Chains of happenings -/

/-- One part of a chain: a happening, or a sample of a line, of which nothing follows. -/
inductive Link (s : State) : State → Prop
  | happens {u : State} (h : OpsChange s u) : Link s (follow s (noteTableFull s u))
  | samples (line : Line) (raw : Level) : Link s (sampleLine line raw s)

/-- A chain of happenings. -/
def Links : State → State → Prop := Relation.ReflTransGen Link

theorem links_noted {s : State} {f : State → State} (h : OpsChange s (f s)) : Links s (noted f s) :=
  .single (.happens h)

theorem links_foldl {α : Type} (g : State → α → State) (hg : ∀ u a, Links u (g u a)) (l : List α) :
    ∀ s, Links s (l.foldl g s) := by
  induction l with
  | nil => exact fun s => .refl
  | cons a l ih => exact fun s => (hg s a).trans (ih (g s a))

section
variable (s : State)

theorem links_takeCopies (line : Line) (l : List ClassId) : Links s (takeCopies line l s) :=
  links_foldl _ (fun u n => links_noted (opsChange_classTakesCopy u line n)) l s

theorem links_takeEdge (line : Line) (taking : EdgeTaking) : Links s (takeEdge line taking s) := by
  unfold takeEdge
  refine Relation.ReflTransGen.trans ?_ (links_takeCopies _ line _)
  split
  · refine Relation.ReflTransGen.tail ?_ (.samples line _)
    split
    · exact links_takeCopies s line _
    · exact .refl
  · exact .refl

theorem links_settleLine (line : Line) : Links s (settleLine line s) := by
  unfold settleLine
  split
  · exact links_takeEdge s line _
  · exact .refl

theorem links_settleTick : Links s (settleTick s) := by
  have hclasses (u : State) : Links u (settleClasses u) :=
    links_foldl _ (fun v n => links_noted (opsChange_classTakesTick v n)) _ u
  have hdeadlines (u : State) : Links u (settleDeadlines u) :=
    links_foldl _ (fun v k => links_noted (opsChange_reachDeadline v k)) _ u
  exact (links_takeCopies s .frame _).trans <| (links_takeCopies _ .gate _).trans <| (hclasses _).trans <|
    (links_settleLine _ .frame).trans <| (links_settleLine _ .gate).trans (hdeadlines _)

end

end Sys2Proof.Machine
end

section
/-! TABLE-FULL (R99). The operations leave the flag and whether the downstream request channel is taken; so a happening
raises the flag by the test of R99 alone, for its own change or for the grant that follows it. The two parts of the
statement then hold of one happening, and the first of every chain. -/

namespace Sys2Proof.Machine

/-! ### The flag and the channel -/

/-- Whether the downstream request channel is taken, and TABLE-FULL. -/
def channel (s : State) : Bool × Bool := (s.down.isSome, s.gflags.tableFull)

section
variable (s : State)

@[simp] theorem setCls_channel (c : ClassId) (k : ClassRec) : channel (s.setCls c k) = channel s := rfl

@[simp] theorem setEntry_channel (k : EntryIndex) (e : Option Flight) : channel (s.setEntry k e) = channel s := rfl

@[simp] theorem setFilter_channel (line : Line) (f : Filter) : channel (s.setFilter line f) = channel s := by
  simp [channel]

theorem channel_of_erasePeriods {s t : State} (h : erasePeriods t = erasePeriods s) : channel t = channel s :=
  (congrArg channel h :)

theorem channel_of_eraseDecision {s t : State} (h : eraseDecision t = eraseDecision s) : channel t = channel s :=
  (congrArg channel h :)

@[simp] theorem raiseGlobal_channel {kind : GlobalKind} (h : kind ≠ .tableFull) :
    channel (raiseGlobal kind s) = channel s := by
  cases kind <;> first | rfl | exact absurd rfl h

@[simp] theorem testDrain_channel : channel (testDrain s) = channel s := by
  rcases testDrain_cases s with e | ⟨-, -, e⟩ <;> rw [e]
  rfl

@[simp] theorem chooseGenerated_channel : channel (chooseGenerated s) = channel s :=
  channel_of_eraseDecision (chooseGenerated_leaves s)

@[simp] theorem decidePresented_channel : channel (decidePresented s) = channel s :=
  channel_of_eraseDecision (decidePresented_leaves s)

@[simp] theorem redecide_channel : channel (redecide s) = channel s := channel_of_eraseDecision (redecide_leaves s)

@[simp] theorem redecideAt_channel (c : ClassId) : channel (redecideAt c s) = channel s := by
  rcases redecideAt_cases s c with e | e <;> simp [e]

@[simp] theorem completionNotice_channel (c : ClassId) (f : Flight) (st : RespStatus) :
    channel (completionNotice c f st s) = channel s := by
  rcases completionNotice_cases s c f st with e | ⟨-, e⟩ | ⟨-, e⟩ <;> rw [e] <;> rfl

@[simp] theorem lowerOutstanding_channel (c : ClassId) : channel (lowerOutstanding c s) = channel s := rfl

@[simp] theorem holdBeat_channel (k : EntryIndex) (b : UpBeat) (st : RespStatus) (e : Bool) :
    channel (holdBeat k b st e s) = channel s := rfl

@[simp] theorem completeEntry_channel (k : EntryIndex) (f : Flight) (st : RespStatus) :
    channel (completeEntry k f st s) = channel s := by
  unfold completeEntry
  dsimp only
  split <;> simp

@[simp] theorem passFirst_channel (b : DownBeat) (f : Flight) : channel (passFirst b f s) = channel s := by
  unfold passFirst
  dsimp only
  split
  · simp
  · split <;> simp

@[simp] theorem arbitrate_channel : channel (arbitrate s) = channel s := by
  rcases chooseLive_cases (chooseGenerated s) with e | ⟨-, b, f, -, -, -, e⟩ <;> rw [arbitrate, e]
  · exact chooseGenerated_channel s
  · exact (passFirst_channel _ b f).trans (chooseGenerated_channel s)

@[simp] theorem presentFirst_channel (p : Option DownBeat) : channel (presentFirst p s) = channel s := by
  rcases presentFirst_cases s p with e | ⟨_, _, -, -, -, -, e⟩ <;> rw [e]
  rfl

theorem passNext_channel (b : DownBeat) : channel (passNext b s) = channel s := by
  unfold passNext
  split
  · dsimp only
    split
    · split <;> simp
    · simp
  · rfl

theorem clearOwed_channel (k : EntryIndex) : channel (clearOwed k s) = channel s := by
  rcases clearOwed_cases s k with e | ⟨_, -, -, e⟩ <;> rw [e]
  rfl

theorem consumeLate_channel (k : EntryIndex) : channel (consumeLate k s) = channel s := by
  rcases consumeLate_cases s k with e | ⟨_, -, -, e⟩ <;> rw [e]
  rfl

theorem takeGenerated_channel : channel (takeGenerated s) = channel s := by
  unfold takeGenerated
  split
  · split
    · unfold endGenerated
      split
      · rw [arbitrate_channel, testDrain_channel]
        rfl
      · rw [arbitrate_channel, testDrain_channel, clearOwed_channel]
        rfl
    · rfl
  · rfl

theorem takeHeld_channel : channel (takeHeld s) = channel s := by
  unfold takeHeld
  split
  · rw [arbitrate_channel]
    rfl
  · rfl
  · rfl

theorem noteLate_channel (c : Option ClassId) : channel (noteLate c s) = channel s := by
  unfold noteLate
  split <;> rfl

theorem beginLate_channel (k : EntryIndex) (f : Flight) (last : Bool) : channel (beginLate k f last s) = channel s := by
  unfold beginLate
  split
  · rw [consumeLate_channel, noteLate_channel]
  · exact noteLate_channel s f.cls

theorem lateBeat_channel (b : DownBeat) : channel (lateBeat b s) = channel s := by
  unfold lateBeat
  split
  · split
    · exact consumeLate_channel _ _
    · rfl
  · rfl
  · split
    · rfl
    · dsimp only
      split
      · split
        · exact beginLate_channel _ _ _ _
        · rfl
      · rfl

theorem beginStray_channel (ends : Bool) : channel (beginStray ends s) = channel s := by
  unfold beginStray
  dsimp only
  split <;> rfl

theorem strayBeat_channel (b : DownBeat) : channel (strayBeat b s) = channel s := by
  unfold strayBeat
  split
  · split <;> rfl
  · rfl
  · split
    · rfl
    · dsimp only
      split
      · exact beginStray_channel _ _
      · split
        · exact beginStray_channel _ _
        · rfl

theorem abandonEntry_channel (k : EntryIndex) (f : Flight) : channel (abandonEntry k f s) = channel s := by
  rw [abandonEntry, chooseGenerated_channel]
  unfold loseRequest
  dsimp only
  split <;> simp

theorem storeBeat_channel (place : Place) (d : Data) (up : UpChannel) :
    channel { storeBeat place d s with up := up } = channel s := by
  cases place <;> simp [channel, storeBeat]

end

section
variable {P : State → Prop} (h : ∀ {s t}, P s → channel t = channel s → P t)
include h

theorem KeptOps.of_channel : KeptOps P where
  toKeptClasses := .of_traffic fun hs ht => h hs (channel_of_erasePeriods ht.rest)
  decide s hs := h hs (decidePresented_channel s)
  abandon s k f _ _ hs := h hs (abandonEntry_channel s k f)
  sample s line _ hs := h hs (setFilter_channel s line _)

theorem KeptOwn.of_channel (hc : ∀ s, P s → P { s with gflags := noGlobalFlags })
    (hr : ∀ s, P s → P (regulatorReset s)) : KeptOwn P where
  toKeptOps := .of_channel h
  drain s hs := h hs (testDrain_channel s)
  offered _ _ _ hs := h hs rfl
  data s place _ d _ hs := h hs (storeBeat_channel s place d _)
  respond s p hs := h hs ((arbitrate_channel _).trans (presentFirst_channel s p))
  passNext s b hs := h hs (passNext_channel s b)
  takeGenerated s hs := h hs (takeGenerated_channel s)
  takeHeld s hs := h hs (takeHeld_channel s)
  lateBeat s b hs := h hs (lateBeat_channel s b)
  strayBeat s b hs := h hs (strayBeat_channel s b)
  map _ _ hs := h hs rfl
  port _ _ hs := h hs rfl
  filterSetting s line _ _ f _ hs := h hs (setFilter_channel s line f)
  tickDiv _ _ hs := h hs rfl
  edge _ _ _ _ _ _ hs := h hs rfl
  lostZero _ hs := h hs rfl
  enables _ _ hs := h hs rfl
  snapshot _ _ hs := h hs rfl
  pop _ _ _ _ hs := h hs rfl
  clearGlobal := hc
  quiesceState _ _ _ hs := h hs rfl
  regulator := hr
  releaseReset _ _ _ hs := h hs rfl

end

theorem channel_of_opsChange {s u : State} (h : OpsChange s u) : channel u = channel s :=
  h (fun t => channel t = channel s) (.of_channel fun hs e => e.trans hs) rfl

/-- The channel is taken as before, and TABLE-FULL is not set where it was not. -/
def ChannelKept (s u : State) : Prop :=
  u.down.isSome = s.down.isSome ∧ (s.gflags.tableFull = false → u.gflags.tableFull = false)

theorem channelKept_of_channel {s t u : State} (h : ChannelKept s t) (e : channel u = channel t) : ChannelKept s u := by
  obtain ⟨hd, hf⟩ := Prod.mk.inj e
  exact ⟨hd.trans h.1, fun hs => hf.trans (h.2 hs)⟩

theorem channelKept_of_ownChange {s u : State} (h : OwnChange s u) : ChannelKept s u := by
  refine h (ChannelKept s) (.of_channel channelKept_of_channel (fun t ht => ⟨ht.1, fun _ => rfl⟩)
    fun t ht => ⟨?_, fun _ => ?_⟩) ⟨rfl, id⟩
  · rw [regulatorReset_eq]
    exact ht.1
  · rw [regulatorReset_eq]
    rfl

theorem down_eq_none_iff {s u : State} (h : u.down.isSome = s.down.isSome) : u.down = none ↔ s.down = none := by
  rw [← Option.not_isSome_iff_eq_none, h, Option.not_isSome_iff_eq_none]

/-! ### What a grant leaves of the flag -/

theorem grantThrough_tableFull (s : State) : (grantThrough s).gflags.tableFull = s.gflags.tableFull := by
  unfold grantThrough
  split
  · next a k _ _ =>
    split
    · have h := channel_of_eraseDecision (atAllClasses_leaves (takeThrough k a s) fun _ => forwardNotice s.gate.level a.cls)
      exact ((Prod.mk.inj (testDrain_channel _)).2.trans (Prod.mk.inj h).2).trans rfl
    · rfl
  · rfl

theorem grantQueues_tableFull (s : State) : (grantQueues s).gflags.tableFull = s.gflags.tableFull := by
  unfold grantQueues
  split
  · next c k _ _ =>
    split
    · next a rest _ =>
      split
      · have h := channel_of_eraseDecision (mapCls_leaves (takeHead c k a rest s)
          fun _ l => (forwardNotice s.gate.level (some c) l).1)
        rw [deliverAll_eq]
        exact ((Prod.mk.inj ((testDrain_channel _).trans (redecide_channel _))).2.trans (Prod.mk.inj h).2).trans rfl
      · rfl
    · rfl
  · rfl

theorem grantNext_tableFull (s : State) : (grantNext s).gflags.tableFull = s.gflags.tableFull := by
  rcases grantNext_cases s with e | e <;> rw [e]
  · exact grantThrough_tableFull s
  · exact grantQueues_tableFull s

/-! ### The test of R99 and the statement's parts -/

section
variable {s t : State}

/-- The flag as the test leaves it. -/
theorem tableFull_noteTableFull (s t : State) :
    (noteTableFull s t).gflags.tableFull = (bringsTableFull s t || t.gflags.tableFull) := by
  unfold noteTableFull
  split
  · next h => rw [h]; rfl
  · next h => rw [Bool.eq_false_iff.2 h, Bool.false_or]

theorem BringsWait.of_brings (h : bringsTableFull s t = true) : BringsWait s t := by
  obtain ⟨-, -, hnews⟩ := (bringsTableFull_iff s t).1 h
  exact hnews.imp_right .inr

/-- Where the channel has not been taken, the test asks for what the statement does. -/
theorem brings_iff (h : s.down = none → t.down = none) : bringsTableFull s t = true ↔
    lowestFree t = none ∧ grantWaits t = true ∧ BringsWait s t := by
  refine ⟨fun hb => ?_, fun ⟨hfull, hwaits, hb⟩ => (bringsTableFull_iff s t).2 ⟨hfull, hwaits, ?_⟩⟩
  · obtain ⟨hfull, hwaits, -⟩ := (bringsTableFull_iff s t).1 hb
    exact ⟨hfull, hwaits, .of_brings hb⟩
  · exact hb.imp_right fun hb => hb.resolve_left fun ⟨h0, h1⟩ => h1 (h h0)

/-- The flags and the port are nothing that the statement's conditions read. -/
theorem RaisesTableFull.with_port (p : Port) (h : RaisesTableFull s t) : RaisesTableFull s { t with port := p } := h

theorem SetsTableFullOnly.with_port (p : Port) (h : SetsTableFullOnly s t) : SetsTableFullOnly s { t with port := p } := h

theorem bringsWait_raiseGlobal : BringsWait s (raiseGlobal .tableFull t) ↔ BringsWait s t := by
  simp only [BringsWait, State.raiseGlobal_down, State.raiseGlobal_through, headReady_raiseGlobal]

/-- What the test of R99 leaves: the flag where the three conditions meet, and no flag elsewhere. -/
theorem noteTableFull_raises (h : s.down = none → t.down = none) : RaisesTableFull s (noteTableFull s t) := by
  intro hfull hwaits hb
  by_cases hbr : bringsTableFull s t = true
  · rw [tableFull_noteTableFull, hbr, Bool.true_or]
  · rw [noteTableFull_of_not_brings hbr] at hfull hwaits hb
    exact absurd ((brings_iff h).2 ⟨hfull, hwaits, hb⟩) hbr

theorem noteTableFull_only (h : s.gflags.tableFull = false → t.gflags.tableFull = false) :
    SetsTableFullOnly s (noteTableFull s t) := by
  intro hs ht
  rw [tableFull_noteTableFull, h hs, Bool.or_false] at ht
  obtain ⟨hfull, hwaits, -⟩ := (bringsTableFull_iff s t).1 ht
  rw [noteTableFull_of_brings ht, lowestFree_raiseGlobal, grantWaits_raiseGlobal, bringsWait_raiseGlobal]
  exact ⟨hfull, hwaits, .of_brings ht⟩

/-- Where the own change has left an entry FREE, the test of the grant that follows is that of the whole happening. -/
theorem grantNext_raises (hfree : lowestFree t ≠ none) : RaisesTableFull s (noteTableFull t (grantNext t)) := by
  intro hfull hwaits _
  by_cases hbr : bringsTableFull t (grantNext t) = true
  · rw [tableFull_noteTableFull, hbr, Bool.true_or]
  · rw [noteTableFull_of_not_brings hbr] at hfull hwaits
    exact absurd ((bringsTableFull_iff _ _).2 ⟨hfull, hwaits, .inl hfree⟩) hbr

theorem grantNext_only (hf : s.gflags.tableFull = false → t.gflags.tableFull = false)
    (hb : lowestFree s ≠ none ∨ s.down = none) (ho : ChoiceOpen t) :
    SetsTableFullOnly s (noteTableFull t (grantNext t)) := by
  intro hs ht
  rw [tableFull_noteTableFull, grantNext_tableFull, hf hs, Bool.or_false] at ht
  obtain ⟨hfull, hwaits, -⟩ := (bringsTableFull_iff _ _).1 ht
  rw [noteTableFull_of_brings ht, lowestFree_raiseGlobal, grantWaits_raiseGlobal, bringsWait_raiseGlobal]
  exact ⟨hfull, hwaits, hb.imp_right fun hd => .inl ⟨hd, grantNext_down t ho⟩⟩

/-- One happening: the flag is raised by the test of its own change, or by that of the grant that follows. -/
theorem follow_raises (h : s.down = none → t.down = none) : RaisesTableFull s (follow s (noteTableFull s t)) := by
  rcases follow_cases s (noteTableFull s t) with e | ⟨-, ho, e⟩ <;> rw [e]
  · exact noteTableFull_raises h
  · exact grantNext_raises ((lowestFree_ne_none _).2 ho.2.1)

theorem follow_only (hf : s.gflags.tableFull = false → t.gflags.tableFull = false)
    (hb : lowestFree t ≠ none → t.down = none → lowestFree s ≠ none ∨ s.down = none) :
    SetsTableFullOnly s (follow s (noteTableFull s t)) := by
  rcases follow_cases s (noteTableFull s t) with e | ⟨-, ho, e⟩ <;> rw [e]
  · exact noteTableFull_only hf
  · by_cases hbr : bringsTableFull s t = true
    · obtain ⟨hfull, -⟩ := (bringsTableFull_iff s t).1 hbr
      rw [noteTableFull_of_brings hbr] at ho
      exact absurd ((lowestFree_raiseGlobal ..).trans hfull) ((lowestFree_ne_none _).2 ho.2.1)
    · rw [noteTableFull_of_not_brings hbr] at ho ⊢
      exact grantNext_only hf (hb ((lowestFree_ne_none _).2 ho.2.1) ho.1) ho

end

/-! ### Happenings and chains -/

/-- Both parts of the statement, of one happening. -/
theorem tableFull_of_happened {s t : State} (h : Happened s t) : RaisesTableFull s t ∧ SetsTableFullOnly s t := by
  obtain ⟨u, p, hu, rfl⟩ := h
  obtain ⟨hd, hf⟩ := channelKept_of_ownChange hu
  have hdown := down_eq_none_iff hd
  exact ⟨(follow_raises hdown.2).with_port p, (follow_only hf fun _ hn => .inr (hdown.1 hn)).with_port p⟩

/-- What a chain carries on: the first part, the flag itself, and that no choice is left open. -/
structure ChainKept (s t : State) : Prop where
  raises : RaisesTableFull s t
  stands : s.gflags.tableFull = true → t.gflags.tableFull = true
  closed : ¬ ChoiceOpen s → ¬ ChoiceOpen t

/-- A wait that comes between two states comes before or after a third. -/
theorem BringsWait.split {s t : State} (h : BringsWait s t) (m : State) :
    BringsWait s m ∨ BringsWait m t := by
  rcases h with h | ⟨h0, h1⟩ | ⟨h0, h1⟩ | ⟨n, h1, h0⟩
  · exact .inl (.inl h)
  · by_cases hm : m.down = none
    · exact .inr (.inr (.inl ⟨hm, h1⟩))
    · exact .inl (.inr (.inl ⟨h0, hm⟩))
  · by_cases hm : m.through = none
    · exact .inr (.inr (.inr (.inl ⟨hm, h1⟩)))
    · exact .inl (.inr (.inr (.inl ⟨h0, hm⟩)))
  · cases hm : headReady m n with
    | false => exact .inr (.inr (.inr (.inr ⟨n, h1, hm⟩)))
    | true => exact .inl (.inr (.inr (.inr ⟨n, hm, h0⟩)))

theorem grantWaits_iff (s : State) : grantWaits s = true ↔ s.through ≠ none ∨ ∃ n, headReady s n = true := by
  simp [grantWaits, Option.isSome_iff_ne_none]

/-- Where nothing waited, a wait has come. -/
theorem BringsWait.of_no_wait {m t : State} (hm : ¬ grantWaits m = true) (ht : grantWaits t = true) : BringsWait m t := by
  rw [grantWaits_iff] at hm ht
  rcases ht with ht | ⟨n, hn⟩
  · exact .inr (.inr (.inl ⟨not_not.1 fun h => hm (.inl h), ht⟩))
  · exact .inr (.inr (.inr ⟨n, hn, Bool.eq_false_iff.2 fun h => hm (.inr ⟨n, h⟩)⟩))

/-- The first part carries over: a wait that came before the middle has set the flag there, or has ended there and comes
again after it. -/
theorem ChainKept.trans {s m t : State} (h : ChainKept s m) (h' : ChainKept m t) : ChainKept s t := by
  refine ⟨fun hfull hwaits hb => ?_, fun hs => h'.stands (h.stands hs), fun hs => h'.closed (h.closed hs)⟩
  rcases hb.split m with hb | hb
  · by_cases hmf : lowestFree m = none
    · by_cases hmw : grantWaits m = true
      · exact h'.stands (h.raises hmf hmw hb)
      · exact h'.raises hfull hwaits (.of_no_wait hmw hwaits)
    · exact h'.raises hfull hwaits (.inl hmf)
  · exact h'.raises hfull hwaits hb

/-- A change that R91, R94 and R99 do not read. -/
structure ArbiterBlind (s t : State) : Prop where
  free : lowestFree t = lowestFree s
  through : t.through = s.through
  down : t.down = s.down
  ready : ∀ c, headReady t c = headReady s c
  flags : t.gflags = s.gflags
  position : t.rrPos = s.rrPos

theorem ArbiterBlind.choiceOpen_eq {s t : State} (h : ArbiterBlind s t) : choiceOpen t = choiceOpen s := by
  have he : eligible t = eligible s := by
    funext c
    rw [eligible, eligible, h.free, h.ready]
  simp only [choiceOpen, nextHead, h.down, h.free, h.through, h.position, he]

theorem ArbiterBlind.brings_nothing {s t : State} (h : ArbiterBlind s t) (hfull : lowestFree t = none) :
    ¬ BringsWait s t := by
  rintro (h0 | ⟨h0, h1⟩ | ⟨h0, h1⟩ | ⟨n, h1, h0⟩)
  · exact h0 (h.free ▸ hfull)
  · exact h1 (h.down.trans h0)
  · exact h1 (h.through.trans h0)
  · rw [h.ready, h0] at h1
    cases h1

theorem ArbiterBlind.chainKept {s t : State} (h : ArbiterBlind s t) : ChainKept s t where
  raises hfull _ hb := absurd hb (h.brings_nothing hfull)
  stands hs := by rw [h.flags, hs]
  closed hs := by rwa [← choiceOpen_iff, h.choiceOpen_eq, choiceOpen_iff]

theorem arbiterBlind_setFilter (s : State) (line : Line) (f : Filter) : ArbiterBlind s (s.setFilter line f) where
  free := lowestFree_congr (State.setFilter_entries ..)
  through := State.setFilter_through ..
  down := State.setFilter_down ..
  ready c := headReady_congr (fun d => by rw [State.cls_setFilter]; exact ⟨rfl, rfl, rfl, rfl, rfl⟩)
    (State.setFilter_quiesce ..) (State.setFilter_flush ..) c
  flags := State.setFilter_gflags ..
  position := State.setFilter_rrPos ..

theorem arbiterBlind_mapCls {s : State} {f : ClassId → ClassRec → ClassRec}
    (h : ∀ c, ArbiterReadsAlike (f c (s.cls c)) (s.cls c)) : ArbiterBlind s (s.mapCls f) where
  free := lowestFree_congr (State.mapCls_entries ..)
  through := State.mapCls_through ..
  down := State.mapCls_down ..
  ready c := headReady_congr (fun d => by rw [State.cls_mapCls]; exact h d) (State.mapCls_quiesce ..)
    (State.mapCls_flush ..) c
  flags := State.mapCls_gflags ..
  position := State.mapCls_rrPos ..

theorem ArbiterBlind.trans {s t u : State} (h : ArbiterBlind s t) (h' : ArbiterBlind t u) : ArbiterBlind s u where
  free := h'.free.trans h.free
  through := h'.through.trans h.through
  down := h'.down.trans h.down
  ready c := (h'.ready c).trans (h.ready c)
  flags := h'.flags.trans h.flags
  position := h'.position.trans h.position

theorem oweCopy_readsAlike (line : Line) (k : ClassRec) : ArbiterReadsAlike (oweCopy line k) k := by
  unfold oweCopy
  split
  · split <;> exact ⟨rfl, rfl, rfl, rfl, rfl⟩
  · exact ⟨rfl, rfl, rfl, rfl, rfl⟩

theorem arbiterBlind_sampleLine (line : Line) (raw : Level) (s : State) : ArbiterBlind s (sampleLine line raw s) := by
  have hf := arbiterBlind_setFilter s line (takeDueSample raw (s.filter line)).1
  unfold sampleLine
  dsimp only
  split
  · exact hf.trans (arbiterBlind_mapCls fun c => oweCopy_readsAlike line _)
  · exact hf

theorem Link.chainKept {s t : State} (h : Link s t) : ChainKept s t := by
  cases h with
  | samples line raw => exact (arbiterBlind_sampleLine line raw s).chainKept
  | @happens u h =>
    obtain ⟨hd, hf⟩ := Prod.mk.inj (channel_of_opsChange h)
    refine ⟨follow_raises (down_eq_none_iff hd).2, fun hs => ?_, follow_closed s _⟩
    rcases follow_cases s (noteTableFull s u) with e | ⟨-, -, e⟩ <;> rw [e]
    · rw [tableFull_noteTableFull, hf, hs, Bool.or_true]
    · rw [tableFull_noteTableFull, grantNext_tableFull, tableFull_noteTableFull, hf, hs, Bool.or_true, Bool.or_true]

theorem ChainKept.refl (s : State) : ChainKept s s :=
  (⟨rfl, rfl, rfl, fun _ => rfl, rfl, rfl⟩ : ArbiterBlind s s).chainKept

theorem Links.chainKept {s t : State} (h : Links s t) : ChainKept s t := by
  induction h with
  | refl => exact .refl s
  | tail _ hl ih => exact ih.trans hl.chainKept

/-! ### TICK -/

theorem tickDelivered_readsAlike (later : Bool) (k : ClassRec) : ArbiterReadsAlike (tickDelivered later k) k := by
  unfold tickDelivered
  split
  · split
    · exact ⟨rfl, rfl, rfl, rfl, rfl⟩
    · split <;> exact ⟨rfl, rfl, rfl, rfl, rfl⟩
  · exact ⟨rfl, rfl, rfl, rfl, rfl⟩

theorem ArbiterBlind.ticked {s m : State} (h : ArbiterBlind s m) (now : Time) (d : TickDiv) (f g : Filter) :
    ArbiterBlind s { m with timebase := now, intervalDiv := d, frame := f, gate := g } :=
  ⟨h.free, h.through, h.down, h.ready, h.flags, h.position⟩

theorem arbiterBlind_tickOnce (f g : Level) (l : List ClassId) (s : State) : ArbiterBlind s (tickOnce f g l s) := by
  have h := arbiterBlind_mapCls (s := s) (f := fun c k => tickDelivered (l.contains c) k)
    fun c => tickDelivered_readsAlike _ _
  exact h.ticked ..

/-- TICK leaves the tick on what its chain has settled: a TABLE-FULL has been raised in the chain, and no choice is left
open there. -/
theorem exec_tick_high (f g : Level) (l : List ClassId) {s : State} (h : s.resetN = .high) :
    exec (.tick f g l) s = .next (tickOnce f g l (settleTick s)) := by
  obtain ⟨u, hu⟩ : ∃ u, u = tickOnce f g l (settleTick s) := ⟨_, rfl⟩
  have hkept : ChainKept s u := by
    rw [hu]
    exact (links_settleTick s).chainKept.trans (arbiterBlind_tickOnce f g l _).chainKept
  have hnote : noteTableFull s u = u := by
    by_cases hb : bringsTableFull s u = true
    · obtain ⟨hfull, hwaits, -⟩ := (bringsTableFull_iff s u).1 hb
      have hstands := hkept.raises hfull hwaits (.of_brings hb)
      rw [noteTableFull_of_brings hb, raiseGlobal, ← hstands]
    · exact noteTableFull_of_not_brings hb
  have hfollow : follow s u = u := by
    by_cases ho : ChoiceOpen s
    · exact follow_idle (.inl ho)
    · exact follow_idle (.inr (hkept.closed ho))
  rw [exec_tick, execTick, happening_high s h, noted, ← hu, hnote, hfollow]

/-! ### The grants and the taking of a forward -/

theorem exec_grantThroughSlot (s : State) : exec .grantThroughSlot s = happening s grantThrough := rfl

theorem exec_grantHead (s : State) : exec .grantHead s = happening s grantQueues := rfl

theorem exec_downstreamRequestTaken (s : State) : exec .downstreamRequestTaken s = happening s takeForward := rfl

/-- A grant leaves the state, or takes the free channel and the lowest-numbered FREE entry. -/
theorem grantThrough_grants (s : State) : grantThrough s = s ∨
    (s.down = none ∧ lowestFree s ≠ none ∧ (grantThrough s).down ≠ none) := by
  unfold grantThrough
  split
  · next a k _ hk =>
    split
    · next hg =>
      simp only [throughGranted, Bool.and_eq_true, Option.isNone_iff_eq_none] at hg
      have h := channel_of_eraseDecision (atAllClasses_leaves (takeThrough k a s) fun _ => forwardNotice s.gate.level a.cls)
      refine .inr ⟨hg.1, by rw [hk]; nofun, ?_⟩
      rw [Ne, down_eq_none_iff (Prod.mk.inj ((testDrain_channel _).trans h)).1]
      nofun
    · exact .inl rfl
  · exact .inl rfl

theorem grantQueues_grants (s : State) : grantQueues s = s ∨
    (s.down = none ∧ lowestFree s ≠ none ∧ (grantQueues s).down ≠ none) := by
  unfold grantQueues
  split
  · next c k _ hk =>
    split
    · next a rest _ =>
      split
      · next hg =>
        simp only [queuesGranted, Bool.and_eq_true, Option.isNone_iff_eq_none] at hg
        have h := channel_of_eraseDecision (mapCls_leaves (takeHead c k a rest s)
          fun _ l => (forwardNotice s.gate.level (some c) l).1)
        refine .inr ⟨hg.1, by rw [hk]; nofun, ?_⟩
        rw [deliverAll_eq, Ne,
          down_eq_none_iff (Prod.mk.inj (((testDrain_channel _).trans (redecide_channel _)).trans h)).1]
        nofun
      · exact .inl rfl
    · exact .inl rfl
  · exact .inl rfl

/-- The row of a grant: no choice follows the grant, which has taken the channel. -/
theorem tableFull_of_grant {s u : State} (hg : u = s ∨ (s.down = none ∧ lowestFree s ≠ none ∧ u.down ≠ none))
    (hf : u.gflags.tableFull = s.gflags.tableFull) :
    RaisesTableFull s (follow s (noteTableFull s u)) ∧ SetsTableFullOnly s (follow s (noteTableFull s u)) := by
  rcases hg with rfl | ⟨hd, hfree, hu⟩
  · exact ⟨follow_raises id, follow_only id fun _ h => .inr h⟩
  · refine ⟨?_, follow_only hf.trans fun _ _ => .inl hfree⟩
    have hidle : follow s (noteTableFull s u) = noteTableFull s u := by
      refine follow_idle (.inr fun ho => hu ?_)
      rw [noteTableFull_eq] at ho
      exact ho.1
    rw [hidle]
    intro hfull hwaits _
    by_cases hbr : bringsTableFull s u = true
    · rw [tableFull_noteTableFull, hbr, Bool.true_or]
    · rw [noteTableFull_of_not_brings hbr] at hfull hwaits
      exact absurd ((bringsTableFull_iff s u).2 ⟨hfull, hwaits, .inl hfree⟩) hbr

theorem takeForward_cases (s : State) : takeForward s = s ∨
    ∃ f, s.down = some f ∧ (takeForward s = { s with down := none } ∨
      takeForward s = { s with down := some { f with sent := f.sent + 1 } }) := by
  unfold takeForward
  split
  · next f hf =>
    split
    · exact .inl rfl
    · split
      · exact .inr ⟨f, hf, .inl rfl⟩
      · exact .inr ⟨f, hf, .inr rfl⟩
  · exact .inl rfl

theorem tableFull_of_takeForward (s : State) :
    RaisesTableFull s (noted takeForward s) ∧ SetsTableFullOnly s (noted takeForward s) := by
  rcases takeForward_cases s with e | ⟨f, hf, e | e⟩ <;> rw [noted, e]
  · exact ⟨follow_raises id, follow_only id fun _ h => .inr h⟩
  · exact ⟨follow_raises fun _ => rfl, follow_only id fun h _ => .inl h⟩
  · exact ⟨follow_raises fun h => absurd (hf.symm.trans h) nofun, follow_only id fun h _ => .inl h⟩

/-! ### Every command -/

theorem exec_filterEdge (line : Line) (taking : EdgeTaking) (s : State) :
    exec (.filterEdge line taking) s = execFilterEdge line taking s := rfl

theorem exec_filterEdge_high (line : Line) (taking : EdgeTaking) {s : State} (h : s.resetN = .high) :
    exec (.filterEdge line taking) s = .next (takeEdge line taking s) :=
  if_pos h

/-- Every command other than a chain, which may raise the flag in one happening and end the wait in another. -/
theorem tableFull_of_exec {c : Instr} {s t : State} (e : exec c s = .next t) (hp : c ≠ .pinReset)
    (ht : ∀ f g l, c ≠ .tick f g l) (hl : ∀ line taking, c ≠ .filterEdge line taking) :
    RaisesTableFull s t ∧ SetsTableFullOnly s t := by
  have hself : RaisesTableFull s s ∧ SetsTableFullOnly s s := tableFull_of_happened (happened_self s)
  by_cases hc : chainsOrForwards c
  · cases c <;> try exact hc.elim
    case tick => exact absurd rfl (ht _ _ _)
    case filterEdge => exact absurd rfl (hl _ _)
    case pinReset => exact absurd rfl hp
    case grantThroughSlot =>
      rw [exec_grantThroughSlot] at e
      rcases happening_cases s t e with rfl | rfl
      · exact hself
      · exact tableFull_of_grant (grantThrough_grants s) (grantThrough_tableFull s)
    case grantHead =>
      rw [exec_grantHead] at e
      rcases happening_cases s t e with rfl | rfl
      · exact hself
      · exact tableFull_of_grant (grantQueues_grants s) (grantQueues_tableFull s)
    case downstreamRequestTaken =>
      rw [exec_downstreamRequestTaken] at e
      rcases happening_cases s t e with rfl | rfl
      · exact hself
      · exact tableFull_of_takeForward s
  · exact tableFull_of_happened (happened_of_exec hc e)

/-- A TICK is the chain of what it settles and the tick itself. -/
theorem chainKept_of_tick {f g : Level} {l : List ClassId} {s t : State} (e : exec (.tick f g l) s = .next t) :
    ChainKept s t := by
  cases hr : s.resetN with
  | low =>
    have hlow : exec (.tick f g l) s = .next s := happening_low _ hr
    rw [hlow] at e
    cases e
    exact .refl s
  | high =>
    rw [exec_tick_high f g l hr] at e
    rw [← Host.Outcome.next.inj e]
    exact (links_settleTick s).chainKept.trans (arbiterBlind_tickOnce f g l _).chainKept

theorem links_of_filterEdge {line : Line} {taking : EdgeTaking} {s t : State}
    (e : exec (.filterEdge line taking) s = .next t) : Links s t := by
  rw [exec_filterEdge] at e
  unfold execFilterEdge at e
  split at e <;> cases e
  · exact links_takeEdge s line taking
  · exact .refl

/-- Settles O23. -/
theorem tableFullRaised : Obligations.TableFullRaised := by
  refine ⟨fun c s t e hp => ?_, fun c s t e ht hl hs => ?_⟩
  · by_cases ht : ∃ f g l, c = .tick f g l
    · obtain ⟨f, g, l, rfl⟩ := ht
      exact (chainKept_of_tick e).raises
    · by_cases hl : ∃ line taking, c = .filterEdge line taking
      · obtain ⟨line, taking, rfl⟩ := hl
        exact (links_of_filterEdge e).chainKept.raises
      · exact (tableFull_of_exec e hp (fun f g l hc => ht ⟨f, g, l, hc⟩) fun line taking hc => hl ⟨line, taking, hc⟩).1
  · by_cases hp : c = .pinReset
    · subst hp
      cases e
      exact fun hf => by cases hf
    · exact (tableFull_of_exec e hp ht hl).2 hs

end Sys2Proof.Machine
end

section
/-! The in-flight table, the response arbiter and the stalled request: what every step keeps of them (R76, R94, R106, R109,
R119, R120). -/

namespace Sys2Proof.Machine

/-! ### One entry -/

theorem entry_pinReset (l : List Instr) (k : EntryIndex) : ({ pinResetState with pending := l } : State).entry k = none :=
  entry_of_resetEntries rfl k

theorem entry_freeEntry (s : State) (k j : EntryIndex) (f : Flight) :
    (freeEntry k f s).entry j = if j = k then none else s.entry j := by
  rcases freeEntry_cases s k f with e | ⟨c, -, e⟩ <;> rw [e]
  · exact State.entry_setEntry s k j none
  · exact State.entry_setEntry s k j none

theorem entry_loseEntry (s : State) (k j : EntryIndex) (f : Flight) :
    (loseEntry k f s).entry j = if j = k then some (abandonedFlight f) else s.entry j := by
  rcases loseEntry_cases s k f with e | ⟨c, -, e⟩ <;> rw [e]
  · exact State.entry_setEntry s k j _
  · exact State.entry_setEntry s k j _

/-- The fields that the changes of one entry leave, of those that the invariants read. -/
theorem freeEntry_rest (s : State) (k : EntryIndex) (f : Flight) : (freeEntry k f s).upResp = s.upResp ∧
    (freeEntry k f s).discard = s.discard ∧ (freeEntry k f s).standing = s.standing := by
  rcases freeEntry_cases s k f with e | ⟨c, -, e⟩ <;> rw [e] <;> exact ⟨rfl, rfl, rfl⟩

theorem completionNotice_rest (c : ClassId) (f : Flight) (st : RespStatus) (s : State) :
    (completionNotice c f st s).entries = s.entries ∧ (completionNotice c f st s).upResp = s.upResp ∧
      (completionNotice c f st s).discard = s.discard ∧ (completionNotice c f st s).standing = s.standing ∧
      (completionNotice c f st s).refused = s.refused := by
  rcases completionNotice_cases s c f st with e | ⟨-, e⟩ | ⟨-, e⟩ <;> rw [e] <;> exact ⟨rfl, rfl, rfl, rfl, rfl⟩

/-- A property of every entry in use after one entry has changed. -/
theorem forall_setEntry {Q : EntryIndex → Flight → Prop} {s : State} (h : ∀ k f, s.entry k = some f → Q k f)
    {k : EntryIndex} {e : Option Flight} (hk : ∀ f, e = some f → Q k f) :
    ∀ j f, (s.setEntry k e).entry j = some f → Q j f := by
  intro j f hj
  rw [State.entry_setEntry] at hj
  split at hj
  · next hjk =>
    subst hjk
    exact hk f hj
  · exact h j f hj

/-! ### The marks of the entries (R106, R119) -/

theorem flightLegal_flightOf (s : State) (a : Accepted) : FlightLegal (flightOf s a) where
  marks _ := ⟨rfl, rfl⟩
  duties _ := .inr rfl
  pendingBeat _ := rfl
  streamingRead h := by cases h

section
variable {f : Flight} (h : FlightLegal f)
include h

theorem FlightLegal.abandoned (hp : f.phase = .pending) : FlightLegal (abandonedFlight f) where
  marks hn := absurd rfl hn
  duties _ := .inl rfl
  pendingBeat _ := h.pendingBeat (by rw [hp]; nofun)
  streamingRead hs := by cases hs

theorem FlightLegal.streams (b : Option Time) (hp : f.phase = .pending) (hk : f.kind = .read) :
    FlightLegal { f with firstBeat := b, phase := .streaming } where
  marks _ := h.marks (by rw [hp]; nofun)
  duties hs := by cases hs
  pendingBeat hs := absurd rfl hs
  streamingRead _ := hk

theorem FlightLegal.consumed (ho : f.owed = true) (hp : f.phase = .abandoned) :
    FlightLegal { f with lateConsumed := true } where
  marks hn := absurd hp hn
  duties _ := .inl ho
  pendingBeat := h.pendingBeat
  streamingRead := h.streamingRead

theorem FlightLegal.sent (hl : f.lateConsumed = false) (hp : f.phase = .abandoned) :
    FlightLegal { f with owed := false } where
  marks hn := absurd hp hn
  duties _ := .inr hl
  pendingBeat := h.pendingBeat
  streamingRead := h.streamingRead

end

section
variable {s : State} (h : EntriesLegal s)
include h

theorem EntriesLegal.setEntry {k : EntryIndex} {e : Option Flight} (he : ∀ f, e = some f → FlightLegal f) :
    EntriesLegal (s.setEntry k e) :=
  forall_setEntry (Q := fun _ f => FlightLegal f) h he

theorem EntriesLegal.consumeLate (k : EntryIndex) : EntriesLegal (consumeLate k s) := by
  rcases consumeLate_cases s k with e | ⟨f, he, hp, e⟩ <;> rw [e]
  · exact h
  · refine h.setEntry fun g hg => ?_
    split at hg
    · next ho =>
      cases hg
      exact (h k f he).consumed ho hp
    · cases hg

theorem EntriesLegal.clearOwed (k : EntryIndex) : EntriesLegal (clearOwed k s) := by
  rcases clearOwed_cases s k with e | ⟨f, he, hp, e⟩ <;> rw [e]
  · exact h
  · refine h.setEntry fun g hg => ?_
    split at hg
    · cases hg
    · next hl =>
      cases hg
      exact (h k f he).sent (by simpa using hl) hp

theorem EntriesLegal.freeEntry (k : EntryIndex) (f : Flight) : EntriesLegal (freeEntry k f s) := by
  intro j g hj
  rw [entry_freeEntry] at hj
  split at hj
  · cases hj
  · exact h j g hj

theorem EntriesLegal.loseEntry {k : EntryIndex} {f : Flight} (he : s.entry k = some f) (hp : f.phase = .pending) :
    EntriesLegal (loseEntry k f s) := by
  intro j g hj
  rw [entry_loseEntry] at hj
  split at hj
  · cases hj
    exact (h k f he).abandoned hp
  · exact h j g hj

end

theorem keptResponses_entriesLegal : KeptResponses EntriesLegal where
  taken _ h := h
  sent _ _ _ h := h
  generate _ _ _ _ _ h := h
  generated _ _ _ _ _ _ h := h
  refusedDone _ _ _ _ h := h
  timeoutDone s k _ _ _ h := EntriesLegal.clearOwed (s := { s with upResp := .free }) h k
  heldTaken _ _ _ _ _ _ h := h
  release _ _ _ _ _ _ h := h
  stand _ _ _ _ _ _ h := h
  unstand _ h := h
  firstBeat s k f b st _ _ he hp hk h :=
    EntriesLegal.setEntry (s := holdBeat k b st false s) h fun g hg => by
      obtain rfl := Option.some.inj hg
      exact (h k f he).streams _ hp hk
  firstEnds s k f b st _ _ _ _ h := EntriesLegal.freeEntry (s := holdBeat k b st true s) h k f
  nextBeat _ _ _ _ _ _ _ _ _ h := h
  nextEnds s k _ _ _ f b st' _ _ _ _ h := EntriesLegal.freeEntry (s := holdBeat k b st' true s) h k f
  nextEndsAlone _ _ _ _ _ _ _ _ _ _ h := h
  notice s c f st h := by
    intro k g hg
    rw [State.entry, (completionNotice_rest c f st s).1] at hg
    exact h k g hg
  lose _ _ _ he hp h := h.loseEntry he hp
  discarding _ _ _ h := h
  discarded _ h := h
  consume _ k _ h := h.consumeLate k
  consumeRest s k _ h := EntriesLegal.consumeLate (s := { s with discard := none }) h k

theorem kept_entriesLegal : Kept EntriesLegal where
  toKeptClasses := .of_periods_unread fun _ => Iff.rfl
  toKeptAdmission := .of_unread fun _ => Iff.rfl
  toKeptResponses := keptResponses_entriesLegal
  toKeptOthers := .of_unread (fun _ => Iff.rfl) fun s h => by
    have he : (regulatorReset s).entries = s.entries := by rw [regulatorReset_eq]
    intro k f hk
    rw [State.entry, he] at hk
    exact h k f hk

theorem entriesLegal_takeThrough {s : State} (h : EntriesLegal s) (k : EntryIndex) (a : Accepted) :
    EntriesLegal (takeThrough k a s) :=
  h.setEntry fun _ hf => Option.some.inj hf ▸ flightLegal_flightOf s a

theorem entriesLegal_takeHead {s : State} (h : EntriesLegal s) (c : ClassId) (k : EntryIndex) (a : Accepted)
    (rest : List Accepted) : EntriesLegal (takeHead c k a rest s) :=
  h.setEntry fun _ hf => Option.some.inj hf ▸ flightLegal_flightOf s { a with marked := false }

theorem entriesLegal_of_step {s t : State} (hs : EntriesLegal s) (e : step s = .next t) : EntriesLegal t :=
  kept_entriesLegal.keptStep (fun _ _ h => h) (fun _ k a _ _ _ h => entriesLegal_takeThrough h k a)
    (fun _ c k a rest _ _ _ _ h => entriesLegal_takeHead h c k a rest) (fun _ _ h => h)
    (fun l k _ he => absurd ((entry_pinReset l k).symm.trans he) nofun) hs e

/-! ### The STREAMING entry and the response in progress (R109) -/

/-- Entry `k` is STREAMING. -/
def Streaming (s : State) (k : EntryIndex) : Prop := ∃ f, s.entry k = some f ∧ f.phase = .streaming

/-- The response of entry `k` is being passed, and more beats of it are to come. -/
def Passing (u : RespChannel) (k : EntryIndex) : Prop := ∃ tag held status, u = .live k tag held status false

theorem streamingOwned_iff (s : State) : StreamingOwned s ↔ ∀ k, Streaming s k ↔ Passing s.upResp k := Iff.rfl

theorem not_passing_free (k : EntryIndex) : ¬ Passing .free k := fun ⟨_, _, _, h⟩ => by cases h

theorem not_passing_generated (source : GenSource) (tag : BitVec 8) (n : Nat) (k : EntryIndex) :
    ¬ Passing (.generated source tag n) k := fun ⟨_, _, _, h⟩ => by cases h

theorem not_passing_ended (j : EntryIndex) (tag : BitVec 8) (held : Option UpBeat) (st : RespStatus) (k : EntryIndex) :
    ¬ Passing (.live j tag held st true) k := fun ⟨_, _, _, h⟩ => by cases h

theorem passing_live (j : EntryIndex) (tag : BitVec 8) (held : Option UpBeat) (st : RespStatus) (k : EntryIndex) :
    Passing (.live j tag held st false) k ↔ k = j :=
  ⟨fun ⟨_, _, _, h⟩ => by cases h; rfl, fun h => h ▸ ⟨_, _, _, rfl⟩⟩

theorem streaming_of_phase {s : State} {k : EntryIndex} {f : Flight} (he : s.entry k = some f) :
    Streaming s k ↔ f.phase = .streaming :=
  ⟨fun ⟨g, hg, hp⟩ => by rw [he] at hg; cases hg; exact hp, fun hp => ⟨f, he, hp⟩⟩

section
variable {s t : State} (h : StreamingOwned s)
include h

/-- A change that makes no entry STREAMING and ends none, and leaves the response in progress. -/
theorem StreamingOwned.of_alike (hs : ∀ k, Streaming t k ↔ Streaming s k) (hu : ∀ k, Passing t.upResp k ↔ Passing s.upResp k) :
    StreamingOwned t := fun k => (hs k).trans ((h k).trans (hu k).symm)

/-- A change of one entry that is not STREAMING, before or after. -/
theorem StreamingOwned.setEntry {k : EntryIndex} {e : Option Flight} (hs : ¬ Streaming s k)
    (he : ∀ f, e = some f → f.phase ≠ .streaming) : StreamingOwned (s.setEntry k e) := by
  refine h.of_alike (fun j => ?_) fun _ => Iff.rfl
  by_cases hj : j = k
  · subst hj
    refine iff_of_false (fun ⟨f, hf, hp⟩ => ?_) hs
    rw [State.entry_setEntry_same] at hf
    exact he f hf hp
  · simp only [Streaming, State.entry_setEntry_ne s e hj]

theorem StreamingOwned.setAbandoned {k : EntryIndex} {f : Flight} {e : Option Flight} (he : s.entry k = some f)
    (hp : f.phase = .abandoned) (hphase : ∀ g, e = some g → g.phase = f.phase) : StreamingOwned (s.setEntry k e) := by
  refine h.setEntry (fun hs => ?_) fun g hg => ?_
  · rw [streaming_of_phase he, hp] at hs
    cases hs
  · rw [hphase g hg, hp]
    nofun

theorem StreamingOwned.consumeLate (k : EntryIndex) : StreamingOwned (consumeLate k s) := by
  rcases consumeLate_cases s k with e | ⟨f, he, hp, e⟩ <;> rw [e]
  · exact h
  · refine h.setAbandoned he hp fun g hg => ?_
    split at hg <;> cases hg
    rfl

theorem StreamingOwned.clearOwed (k : EntryIndex) : StreamingOwned (clearOwed k s) := by
  rcases clearOwed_cases s k with e | ⟨f, he, hp, e⟩ <;> rw [e]
  · exact h
  · refine h.setAbandoned he hp fun g hg => ?_
    split at hg <;> cases hg
    rfl

/-- A response that is not in progress gives way to another one that is not. -/
theorem StreamingOwned.respond {u : RespChannel} (hs : ∀ k, ¬ Passing s.upResp k) (hu : ∀ k, ¬ Passing u k) :
    StreamingOwned { s with upResp := u } :=
  h.of_alike (fun _ => Iff.rfl) fun k => iff_of_false (hu k) (hs k)

/-- The response of entry `k` ends, and the entry with it. -/
theorem StreamingOwned.ends {k : EntryIndex} (f : Flight) (b : UpBeat) (st : RespStatus)
    (hs : ∀ j, j ≠ k → ¬ Passing s.upResp j) : StreamingOwned (Machine.freeEntry k f (holdBeat k b st true s)) := by
  intro j
  change Streaming _ j ↔ Passing _ j
  obtain ⟨hu, -, -⟩ := freeEntry_rest (holdBeat k b st true s) k f
  rw [hu]
  refine iff_of_false (fun ⟨g, hg, hp⟩ => ?_) (not_passing_ended _ _ _ _ j)
  rw [entry_freeEntry] at hg
  split at hg
  · cases hg
  · next hj => exact hs j hj ((h j).1 ⟨g, hg, hp⟩)

theorem StreamingOwned.loseEntry {k : EntryIndex} {f : Flight} (he : s.entry k = some f) (hp : f.phase = .pending) :
    StreamingOwned (loseEntry k f s) := by
  have hset : StreamingOwned (s.setEntry k (some (abandonedFlight f))) := by
    refine h.setEntry (fun hs => ?_) fun g hg => ?_
    · rw [streaming_of_phase he, hp] at hs
      cases hs
    · obtain rfl := Option.some.inj hg
      nofun
  rcases loseEntry_cases s k f with e | ⟨c, -, e⟩ <;> rw [e]
  · exact hset
  · exact hset

/-- The first beat of a READ's response makes its entry STREAMING and the response the one in progress. -/
theorem StreamingOwned.begins {k : EntryIndex} {f : Flight} (b : UpBeat) (st : RespStatus) (hu : s.upResp = .free)
    (hf : f.phase = .streaming) : StreamingOwned ((holdBeat k b st false s).setEntry k (some f)) := by
  intro j
  change Streaming _ j ↔ Passing _ j
  have hup : ((holdBeat k b st false s).setEntry k (some f)).upResp = .live k b.tag (some b) st false := rfl
  rw [hup, passing_live]
  by_cases hj : j = k
  · subst hj
    exact iff_of_true ⟨f, State.entry_setEntry_same .., hf⟩ rfl
  · refine iff_of_false (fun ⟨g, hg, hp⟩ => ?_) hj
    rw [State.entry_setEntry_ne _ _ hj] at hg
    have hpass : Passing s.upResp j := (h j).1 ⟨g, hg, hp⟩
    rw [hu] at hpass
    exact not_passing_free j hpass

end

theorem keptResponses_streamingOwned : KeptResponses StreamingOwned where
  taken _ h := h
  sent _ _ _ h := h
  generate s source tag n hu h :=
    h.respond (by rw [hu]; exact not_passing_free) (not_passing_generated source tag n)
  generated s source tag n m hu h :=
    h.respond (by rw [hu]; exact not_passing_generated source tag n) (not_passing_generated source tag m)
  refusedDone s tag n hu h :=
    StreamingOwned.respond (s := { s with refused := none }) h (by rw [hu]; exact not_passing_generated _ tag n)
      not_passing_free
  timeoutDone s k tag n hu h :=
    (h.respond (by rw [hu]; exact not_passing_generated _ tag n) not_passing_free).clearOwed k
  heldTaken s k tag b st hu h := h.of_alike (fun _ => Iff.rfl) fun j => by rw [hu, passing_live, passing_live]
  release s k tag b st hu h := h.respond (by rw [hu]; exact not_passing_ended k tag _ st) not_passing_free
  stand _ _ _ _ _ _ h := h
  unstand _ h := h
  firstBeat s k f b st hu _ _ _ _ h := h.begins b st hu rfl
  firstEnds s k f b st hu _ _ _ h := h.ends f b st fun j _ => by rw [hu]; exact not_passing_free j
  nextBeat s k tag held st b st' hu _ h := h.of_alike (fun _ => Iff.rfl) fun j => by
    rw [hu]
    exact (passing_live ..).trans (passing_live ..).symm
  nextEnds s k tag held st f b st' hu _ _ _ h :=
    h.ends f b st' fun j hj => by rw [hu, passing_live]; exact hj
  nextEndsAlone s k tag held st b st' hu _ hn h := by
    have hk : Streaming s k := (h k).2 ⟨tag, held, st, hu⟩
    obtain ⟨f, he, hp⟩ := hk
    exact absurd hp (hn f he)
  notice s c f st h := by
    obtain ⟨he, hu, -⟩ := completionNotice_rest c f st s
    exact h.of_alike (fun k => by simp only [Streaming, State.entry, he]) fun k => by rw [hu]
  lose _ _ _ he hp h := h.loseEntry he hp
  discarding _ _ _ h := h
  discarded _ h := h
  consume _ k _ h := h.consumeLate k
  consumeRest s k _ h := StreamingOwned.consumeLate (s := { s with discard := none }) h k

/-- The fields of the in-flight table and of the response channels after RESET_REGULATOR's own effects. -/
theorem regulatorReset_rest (s : State) : (regulatorReset s).entries = s.entries ∧
    (regulatorReset s).upResp = s.upResp ∧ (regulatorReset s).discard = s.discard ∧
    (regulatorReset s).standing = s.standing ∧ (regulatorReset s).refused = s.refused ∧
    (regulatorReset s).up = s.up ∧ (regulatorReset s).through = s.through := by
  rw [regulatorReset_eq]
  exact ⟨rfl, rfl, rfl, rfl, rfl, rfl, rfl⟩

theorem kept_streamingOwned : Kept StreamingOwned where
  toKeptClasses := .of_periods_unread fun _ => Iff.rfl
  toKeptAdmission := .of_unread fun _ => Iff.rfl
  toKeptResponses := keptResponses_streamingOwned
  toKeptOthers := .of_unread (fun _ => Iff.rfl) fun s h => by
    obtain ⟨he, hu, -⟩ := regulatorReset_rest s
    exact h.of_alike (fun k => by simp only [Streaming, State.entry, he]) fun k => by rw [hu]

/-- A FREE entry that a grant fills was not STREAMING and is PENDING. -/
theorem StreamingOwned.allocates {s : State} (h : StreamingOwned s) {k : EntryIndex} (hk : lowestFree s = some k)
    (a : Accepted) : StreamingOwned (s.setEntry k (some (flightOf s a))) := by
  refine h.setEntry (fun ⟨f, hf, _⟩ => ?_) fun f hf => ?_
  · rw [entry_of_lowestFree hk] at hf
    cases hf
  · obtain rfl := Option.some.inj hf
    nofun

theorem streamingOwned_of_step {s t : State} (hs : StreamingOwned s) (e : step s = .next t) : StreamingOwned t :=
  kept_streamingOwned.keptStep (fun _ _ h => h) (fun _ _ a _ hk _ h => h.allocates hk a)
    (fun _ _ _ a _ _ hk _ _ h => h.allocates hk { a with marked := false }) (fun _ _ h => h)
    (fun l k => iff_of_false (fun ⟨_, he, _⟩ => absurd ((entry_pinReset l k).symm.trans he) nofun) (not_passing_free k))
    hs e

/-! ### The stalled request and the slots (R76) -/

theorem stalledAt_of_not_presented {s : State} (h : ∀ r c, s.up ≠ .presented r c) : stalledAt s = none := by
  unfold stalledAt
  split
  · next r c hu => exact absurd hu (h r c)
  · rfl

theorem StallLeavesSlotsEmpty.of_none {s : State} (h : stalledAt s = none) : StallLeavesSlotsEmpty s :=
  fun hs => absurd h hs

theorem afterHeader_ne_presented (r : Request) (p : Place) (r' : Request) (c : Option ClassId) :
    afterHeader r p ≠ .presented r' c := by
  unfold afterHeader
  split <;> nofun

theorem afterBeat_ne_presented (p : Place) (n : Nat) (r : Request) (c : Option ClassId) :
    afterBeat p n ≠ .presented r c := by
  unfold afterBeat
  split <;> nofun

/-- The request has been taken from the channel, so that none stalls. -/
theorem StallLeavesSlotsEmpty.of_taken {s : State} {r : Request} {p : Place} (h : s.up = afterHeader r p) :
    StallLeavesSlotsEmpty s :=
  .of_none (stalledAt_of_not_presented fun r' c => by rw [h]; exact afterHeader_ne_presented r p r' c)

theorem keptAdmission_stallLeavesSlotsEmpty : KeptAdmission StallLeavesSlotsEmpty where
  offered _ _ _ _ := .of_none rfl
  bypass _ _ _ _ _ _ _ := .of_taken rfl
  unregulated _ _ _ _ _ _ _ _ _ _ := .of_taken rfl
  charged _ _ _ _ _ _ _ _ _ _ _ := .of_taken rfl
  marked _ _ _ _ _ _ _ _ _ _ := .of_taken rfl
  refuse _ _ _ _ _ _ _ := .of_taken rfl
  join _ _ _ _ _ _ _ _ := .of_taken rfl
  stall s _ _ _ _ ha _ := fun _ => by
    obtain ⟨ht, hr, -⟩ := (acceptance_iff s).1 ha
    exact ⟨ht, hr⟩
  data _ place n _ _ _ := .of_none (stalledAt_of_not_presented (afterBeat_ne_presented place n))

theorem kept_stallLeavesSlotsEmpty : Kept StallLeavesSlotsEmpty where
  toKeptClasses := .of_periods_unread fun _ => Iff.rfl
  toKeptAdmission := keptAdmission_stallLeavesSlotsEmpty
  toKeptResponses := .of_unread (fun _ => Iff.rfl) (fun _ _ h => h)
    (fun _ h hs => ⟨(h hs).1, rfl⟩) fun s c f st h => by
      rcases completionNotice_cases s c f st with e | ⟨-, e⟩ | ⟨-, e⟩ <;> rw [e]
      · exact h
      · exact h
      · exact h
  toKeptOthers := .of_unread (fun _ => Iff.rfl) fun s h => by
    obtain ⟨-, -, -, -, hr, hu, ht⟩ := regulatorReset_rest s
    simpa only [StallLeavesSlotsEmpty, stalledAt, hr, hu, ht] using h

theorem redirectData_presented {left : Place} {up : UpChannel} {r : Request} {c : Option ClassId}
    (h : redirectData left up = .presented r c) : up = .presented r c := by
  unfold redirectData at h
  split at h
  · split at h <;> cases h
  · exact h

theorem stalledAt_redirectData {s : State} {left : Place} (h : StallLeavesSlotsEmpty s) {t : State}
    (hu : t.up = redirectData left s.up) (hr : t.refused = s.refused) (ht : s.through = none → t.through = none) :
    StallLeavesSlotsEmpty t := by
  intro hs
  unfold stalledAt at hs
  split at hs
  · next r c hp =>
    have hup : s.up = .presented r c := redirectData_presented (hu ▸ hp)
    obtain ⟨h1, h2⟩ := h (by simpa only [stalledAt, hup] using hs)
    exact ⟨ht h1, hr.trans h2⟩
  · exact absurd rfl hs

theorem stallLeavesSlotsEmpty_takeHead {s : State} (h : StallLeavesSlotsEmpty s) (c : ClassId) (k : EntryIndex)
    (a : Accepted) (rest : List Accepted) : StallLeavesSlotsEmpty (takeHead c k a rest s) := by
  by_cases hr : rest = []
  · exact stalledAt_redirectData (left := .held c) h (by simp [takeHead, hr]) rfl id
  · intro hs
    have hu : (takeHead c k a rest s).up = s.up := by simp [takeHead, hr]
    exact h (by simpa only [stalledAt, hu] using hs)

theorem stallLeavesSlotsEmpty_of_step {s t : State} (hs : StallLeavesSlotsEmpty s) (e : step s = .next t) :
    StallLeavesSlotsEmpty t :=
  kept_stallLeavesSlotsEmpty.keptStep (fun _ _ h => h)
    (fun s k a _ _ _ h => stalledAt_redirectData (t := takeThrough k a s) (left := .through) h rfl rfl fun _ => rfl)
    (fun _ c k a rest _ _ _ _ h => stallLeavesSlotsEmpty_takeHead h c k a rest) (fun _ _ h => h)
    (fun _ => .of_none rfl) hs e

/-! ### The first beat that waits downstream (R109) -/

/-- The entry may be the one of a first beat that waits downstream. -/
def MayStand (f : Flight) : Prop := f.phase = .pending ∨ (f.phase = .abandoned ∧ f.lateConsumed = false)

theorem StandingLegal.of_none {s : State} (h : s.standing = none) : StandingLegal s := fun b hb => by
  rw [h] at hb
  cases hb

section
variable {s t : State} (h : StandingLegal s)
include h

theorem StandingLegal.none_of_passing (hp : livePassing s = true) : s.standing = none := by
  by_contra hs
  obtain ⟨b, hb⟩ := Option.ne_none_iff_exists'.1 hs
  obtain ⟨-, hn, -⟩ := h b hb
  rw [hp] at hn
  cases hn

theorem StandingLegal.none_of_discard (hd : s.discard ≠ none) : s.standing = none := by
  by_contra hs
  obtain ⟨b, hb⟩ := Option.ne_none_iff_exists'.1 hs
  exact hd (h b hb).1

theorem StandingLegal.of_alike (hs : t.standing = s.standing) (hd : t.discard = s.discard) (hu : t.upResp = s.upResp)
    (he : t.entries = s.entries) : StandingLegal t := by
  simpa only [StandingLegal, livePassing, State.entry, hs, hd, hu, he] using h

/-- A channel that carries no live response, or the last beat of one, leaves the downstream channel to the beat. -/
theorem StandingLegal.respond (u : RespChannel) (hu : livePassing { s with upResp := u } = false) :
    StandingLegal { s with upResp := u } := fun b hb => by
  obtain ⟨hd, -, he⟩ := h b hb
  exact ⟨hd, hu, he⟩

theorem StandingLegal.setEntry {k : EntryIndex} {e : Option Flight}
    (he : ∀ f, s.entry k = some f → MayStand f → ∃ g, e = some g ∧ MayStand g) : StandingLegal (s.setEntry k e) := by
  intro b hb
  obtain ⟨hd, hl, f, hf, hm⟩ := h b hb
  refine ⟨hd, hl, ?_⟩
  by_cases hk : b.tag = k
  · subst hk
    rw [State.entry_setEntry_same]
    exact he f hf hm
  · rw [State.entry_setEntry_ne _ _ hk]
    exact ⟨f, hf, hm⟩

theorem StandingLegal.clearOwed (k : EntryIndex) : StandingLegal (clearOwed k s) := by
  rcases clearOwed_cases s k with e | ⟨f, he, hp, e⟩ <;> rw [e]
  · exact h
  · refine h.setEntry fun g hg hm => ?_
    rw [he] at hg
    cases hg
    rcases hm with hm | hm
    · rw [hp] at hm
      cases hm
    · exact ⟨{ f with owed := false }, by rw [hm.2]; rfl, .inr hm⟩

theorem StandingLegal.loseEntry (k : EntryIndex) (f : Flight) : StandingLegal (loseEntry k f s) := by
  have hset : StandingLegal (s.setEntry k (some (abandonedFlight f))) :=
    h.setEntry fun _ _ _ => ⟨_, rfl, .inr ⟨rfl, rfl⟩⟩
  rcases loseEntry_cases s k f with e | ⟨c, -, e⟩ <;> rw [e]
  · exact hset
  · exact hset

/-- A FREE entry is that of no first beat. -/
theorem StandingLegal.allocates {k : EntryIndex} (hk : lowestFree s = some k) (e : Option Flight) :
    StandingLegal (s.setEntry k e) :=
  h.setEntry fun _ hf _ => absurd ((entry_of_lowestFree hk).symm.trans hf) nofun

end

theorem standing_freeEntry {s : State} (k : EntryIndex) (f : Flight) (h : s.standing = none) :
    StandingLegal (freeEntry k f s) :=
  .of_none ((freeEntry_rest s k f).2.2.trans h)

theorem standing_consumeLate {s : State} (k : EntryIndex) (h : s.standing = none) : StandingLegal (consumeLate k s) := by
  rcases consumeLate_cases s k with e | ⟨_, -, -, e⟩ <;> rw [e] <;> exact .of_none h

theorem livePassing_of_live {s : State} {k : EntryIndex} {tag : BitVec 8} {held : Option UpBeat} {st : RespStatus}
    {ended : Bool} (h : s.upResp = .live k tag held st ended) : livePassing s = !ended := by
  simp only [livePassing, h]

theorem keptResponses_standingLegal : KeptResponses StandingLegal where
  taken _ h := h
  sent _ _ _ h := h
  generate _ source tag n _ h := h.respond (.generated source tag n) rfl
  generated _ source tag _ m _ h := h.respond (.generated source tag m) rfl
  refusedDone s _ _ _ h := StandingLegal.respond (s := { s with refused := none }) h .free rfl
  timeoutDone _ k _ _ _ h := (h.respond .free rfl).clearOwed k
  heldTaken _ _ _ _ _ hu h := .of_none (h.none_of_passing (livePassing_of_live hu))
  release _ _ _ _ _ _ h := h.respond .free rfl
  stand s b f hd he hp _ := fun c hc => by
    obtain ⟨-, hdiscard, hlive⟩ := (downstreamOpen_iff s).1 hd
    obtain rfl := Option.some.inj hc
    exact ⟨hdiscard, hlive, f, he, .inl hp⟩
  unstand _ _ := .of_none rfl
  firstBeat _ _ _ _ _ _ hw _ _ _ _ := .of_none hw
  firstEnds _ k f _ _ _ hw _ _ _ := standing_freeEntry k f hw
  nextBeat _ _ _ _ _ _ _ hu _ h := .of_none (h.none_of_passing (livePassing_of_live hu))
  nextEnds _ k _ _ _ f _ _ hu _ _ _ h := standing_freeEntry k f (h.none_of_passing (livePassing_of_live hu))
  nextEndsAlone _ _ _ _ _ _ _ hu _ _ h := .of_none (h.none_of_passing (livePassing_of_live hu))
  notice s c f st h := by
    obtain ⟨he, hu, hd, hs, -⟩ := completionNotice_rest c f st s
    exact h.of_alike hs hd hu he
  lose _ k f _ _ h := h.loseEntry k f
  discarding _ _ hs _ := .of_none hs
  discarded _ h := fun b hb => ⟨rfl, (h b hb).2⟩
  consume _ k hs _ := standing_consumeLate k hs
  consumeRest _ k hd h := standing_consumeLate k (h.none_of_discard (by rw [hd]; nofun))

theorem kept_standingLegal : Kept StandingLegal where
  toKeptClasses := .of_periods_unread fun _ => Iff.rfl
  toKeptAdmission := .of_unread fun _ => Iff.rfl
  toKeptResponses := keptResponses_standingLegal
  toKeptOthers := .of_unread (fun _ => Iff.rfl) fun s h => by
    obtain ⟨he, hu, hd, hs, -⟩ := regulatorReset_rest s
    exact h.of_alike hs hd hu he

theorem keptByGrants_standingLegal : KeptByGrants StandingLegal :=
  ⟨fun _ _ _ _ hk _ h => h.allocates hk _, fun _ _ _ _ _ _ hk _ _ h => h.allocates hk _⟩

theorem ownChange_standingLegal {s u : State} (hu : OwnChange s u) (h : StandingLegal s) : StandingLegal u :=
  hu _ (kept_standingLegal.own fun _ _ h => h) h

end Sys2Proof.Machine
end

section
/-! An invariant that the operations keep (`KeptOwn`), and TABLE-FULL, the grants, the taking of a forward, pin reset and the
queue too, is kept by every step. The choice of the response arbiter (R120) is one: no elementary change keeps it, but every
operation does. -/

namespace Sys2Proof.Machine

/-! ### Every step keeps what the operations and the grants keep -/

/-- The changes of every step, at the level of the operations. -/
structure KeptSteps (P : State → Prop) : Prop where
  own : ∀ s u, OwnChange s u → P s → P u
  full : ∀ s, P s → P (raiseGlobal .tableFull s)
  through : KeptByThrough P
  head : KeptByHead P
  taken : ∀ s, P s → P { s with down := none }
  sent : ∀ s f, s.down = some f → P s → P { s with down := some { f with sent := f.sent + 1 } }
  pins : KeptByPins P
  queue : KeptByQueue P

namespace KeptSteps

variable {P : State → Prop} (h : KeptSteps P) {s t : State}
include h

theorem keptNoteTableFull (ht : P t) : P (noteTableFull s t) := by
  rcases noteTableFull_cases s t with e | e <;> rw [e]
  · exact ht
  · exact h.full t ht

theorem keptNotices {g : Level} {c : Option ClassId} (hs : P s) : P (deliverAll (fun _ => forwardNotice g c) s) :=
  h.own _ _ (fun _ hp => hp.notices s g c) hs

theorem keptRedecide (hs : P s) : P (redecide s) := h.own _ _ (fun _ hp => hp.keptRedecide) hs

theorem keptTestDrain (hs : P s) : P (testDrain s) := h.own _ _ (fun _ hp => hp.drain s) hs

theorem keptAtAllClasses {g : Level} {c : Option ClassId} (hs : P s) :
    P (atAllClasses (fun _ => forwardNotice g c) s) := by
  unfold atAllClasses
  split
  · exact h.keptRedecide (h.keptNotices hs)
  · exact h.keptNotices hs

theorem keptGrantThrough (hs : P s) : P (grantThrough s) := by
  unfold grantThrough
  split
  · next a k ha hk =>
    split
    · next hg =>
      simp only [throughGranted, Bool.and_eq_true, Option.isNone_iff_eq_none] at hg
      exact h.keptTestDrain (h.keptAtAllClasses (h.through s k a ha hk hg.1 hs))
    · exact hs
  · exact hs

theorem keptGrantQueues (hs : P s) : P (grantQueues s) := by
  unfold grantQueues
  split
  · next c k hc hk =>
    split
    · next a rest hq =>
      split
      · next hg =>
        simp only [queuesGranted, Bool.and_eq_true, Option.isNone_iff_eq_none] at hg
        exact h.keptTestDrain (h.keptRedecide (h.keptNotices (h.head s c k a rest hc hk hq hg.1 hs)))
      · exact hs
    · exact hs
  · exact hs

theorem keptFollow (ht : P t) : P (follow s t) := by
  rcases follow_cases s t with e | ⟨-, -, e⟩ <;> rw [e]
  · exact ht
  · refine h.keptNoteTableFull ?_
    rcases grantNext_cases t with e | e <;> rw [e]
    · exact h.keptGrantThrough ht
    · exact h.keptGrantQueues ht

theorem keptNoted {f : State → State} (ht : P (f s)) : P (noted f s) := h.keptFollow (h.keptNoteTableFull ht)

theorem keptHappened (hs : P s) (ht : Happened s t) : P t := by
  obtain ⟨u, p, hu, rfl⟩ := ht
  exact h.own _ _ (fun _ hp => hp.port _ p) (h.keptFollow (h.keptNoteTableFull (h.own _ _ hu hs)))

theorem keptLink (hs : P s) (ht : Link s t) : P t := by
  cases ht with
  | happens hu => exact h.keptFollow (h.keptNoteTableFull (h.own _ _ hu.own hs))
  | samples line raw => exact h.own _ _ (fun _ hp => hp.keptSampleLine line raw) hs

theorem keptLinks (hs : P s) (ht : Links s t) : P t := by
  induction ht with
  | refl => exact hs
  | tail _ hl ih => exact h.keptLink ih hl

theorem keptTick {f g : Level} {l : List ClassId} (hs : P s) (e : exec (.tick f g l) s = .next t) : P t := by
  cases hr : s.resetN with
  | low =>
    have hlow : exec (.tick f g l) s = .next s := happening_low _ hr
    rw [hlow] at e
    cases e
    exact hs
  | high =>
    rw [exec_tick_high f g l hr] at e
    rw [← Host.Outcome.next.inj e]
    exact h.own _ _ (fun _ hp => hp.tick _ f g l) (h.keptLinks hs (links_settleTick s))

theorem keptHappening {f : State → State} (hf : P s → P (f s)) (hs : P s) (e : happening s f = .next t) : P t := by
  rcases happening_cases s t e with rfl | rfl
  · exact hs
  · exact h.keptNoted (hf hs)

theorem keptTakeForward (hs : P s) : P (takeForward s) := by
  rcases takeForward_cases s with e | ⟨f, hf, e | e⟩ <;> rw [e]
  · exact hs
  · exact h.taken s hs
  · exact h.sent s f hf hs

theorem keptExec {c : Instr} (hs : P s) (e : exec c s = .next t) : P t := by
  by_cases hc : chainsOrForwards c
  · cases c <;> try exact hc.elim
    case tick => exact h.keptTick hs e
    case filterEdge => exact h.keptLinks hs (links_of_filterEdge e)
    case grantThroughSlot =>
      rw [exec_grantThroughSlot] at e
      exact h.keptHappening h.keptGrantThrough hs e
    case grantHead =>
      rw [exec_grantHead] at e
      exact h.keptHappening h.keptGrantQueues hs e
    case downstreamRequestTaken =>
      rw [exec_downstreamRequestTaken] at e
      exact h.keptHappening h.keptTakeForward hs e
    case pinReset =>
      cases e
      exact h.pins _
  · exact h.keptHappened hs (happened_of_exec hc e)

theorem keptStep (hs : P s) (e : step s = .next t) : P t := by
  unfold step at e
  split at e
  · cases e
    exact hs
  · exact h.keptExec (h.queue s _ hs) e

end KeptSteps

/-! ### What a decision does to the response arbiter -/

/-- The entries and the standing beat stay, and the arbiter is busy, or its channel and the refused slot stay. -/
structure ArbiterKept (s t : State) : Prop where
  entries : t.entries = s.entries
  standing : t.standing = s.standing
  arbiter : t.upResp ≠ .free ∨ (t.upResp = s.upResp ∧ t.refused = s.refused)

theorem ArbiterKept.refl (s : State) : ArbiterKept s s := ⟨rfl, rfl, .inr ⟨rfl, rfl⟩⟩

theorem ArbiterKept.busy {s t : State} (h : ArbiterKept s t) (hs : s.upResp ≠ .free) : t.upResp ≠ .free := by
  rcases h.arbiter with hb | ⟨hu, -⟩
  · exact hb
  · rwa [hu]

theorem ArbiterKept.trans {s t u : State} (h : ArbiterKept s t) (h' : ArbiterKept t u) : ArbiterKept s u where
  entries := h'.entries.trans h.entries
  standing := h'.standing.trans h.standing
  arbiter := by
    rcases h'.arbiter with hb | ⟨hu, hr⟩
    · exact .inl hb
    · rcases h.arbiter with hb | ⟨hu', hr'⟩
      · exact .inl (hu ▸ hb)
      · exact .inr ⟨hu.trans hu', hr.trans hr'⟩

theorem ArbiterKept.chosen {s t : State} (h : ArbiterKept s t) (hs : ArbiterChosen s) : ArbiterChosen t := by
  intro hu
  rcases h.arbiter with hb | ⟨hu', hr⟩
  · exact absurd hu hb
  · obtain ⟨h1, h2, h3⟩ := hs (hu'.symm.trans hu)
    refine ⟨hr.trans h1, ?_, ?_⟩
    · simpa only [NothingOwed, State.entry, h.entries] using h2
    · simpa only [LiveWaits, State.entry, h.entries, h.standing] using h3

theorem chooseGenerated_busy {s : State} (h : s.refused ≠ none ∨ ¬ NothingOwed s) :
    (chooseGenerated s).upResp ≠ .free := by
  by_cases hu : s.upResp = .free
  · cases hx : s.refused with
    | some x => simp [chooseGenerated, hu, hx]
    | none =>
      obtain ⟨k, hk⟩ := Option.ne_none_iff_exists'.1 fun hn =>
        h.resolve_left (fun e => e hx) ((lowestOwed_eq_none s).1 hn)
      have ho := List.find?_some hk
      split at ho
      · next f hf => simp [chooseGenerated, hu, hx, hk, hf]
      · cases ho
  · rwa [chooseGenerated_of_busy s hu]

section
variable (s : State)

theorem arbiterKept_enterRefused (c : ClassId) (r : Request) : ArbiterKept s (enterRefused c r s) where
  entries := by
    rcases chooseGenerated_cases (fillRefused c r s) with e | ⟨-, _, _, _, e⟩ <;> rw [enterRefused, e] <;> rfl
  standing := by
    rcases chooseGenerated_cases (fillRefused c r s) with e | ⟨-, _, _, _, e⟩ <;> rw [enterRefused, e] <;> rfl
  arbiter := .inl (chooseGenerated_busy (.inl nofun))

theorem arbiterKept_attemptJoin (c : ClassId) (r : Request) : ArbiterKept s (attemptJoin c r s) := by
  unfold attemptJoin
  split
  · exact ⟨rfl, rfl, .inr ⟨rfl, rfl⟩⟩
  · dsimp only
    split
    · exact .trans (t := s.updCls c (raiseAt .holdFull)) ⟨rfl, rfl, .inr ⟨rfl, rfl⟩⟩ (arbiterKept_enterRefused _ c r)
    · exact ⟨rfl, rfl, .inr ⟨rfl, rfl⟩⟩

theorem arbiterKept_overBudgetStep (c : ClassId) (r : Request) : ArbiterKept s (overBudgetStep c r s) := by
  have hm : ArbiterKept s (s.updCls c setOverrun) := ⟨rfl, rfl, .inr ⟨rfl, rfl⟩⟩
  unfold overBudgetStep
  dsimp only
  split
  · exact hm.trans (arbiterKept_attemptJoin _ c r)
  · exact ⟨rfl, rfl, .inr ⟨rfl, rfl⟩⟩
  · exact hm.trans (arbiterKept_enterRefused _ c r)

theorem arbiterKept_decideClassed (c : ClassId) (r : Request) : ArbiterKept s (decideClassed c r s) := by
  unfold decideClassed
  dsimp only
  split
  · exact arbiterKept_attemptJoin s c r
  · split
    · split
      · exact ⟨rfl, rfl, .inr ⟨rfl, rfl⟩⟩
      · exact arbiterKept_attemptJoin s c r
    · split
      · exact arbiterKept_attemptJoin s c r
      · split
        · exact ⟨rfl, rfl, .inr ⟨rfl, rfl⟩⟩
        · exact arbiterKept_overBudgetStep s c r

theorem arbiterKept_decidePresented : ArbiterKept s (decidePresented s) := by
  rcases decidePresented_cases s with e | ⟨r, c, -, -, e⟩ <;> rw [e]
  · exact .refl s
  · unfold decideRequest
    split
    · exact ⟨rfl, rfl, .inr ⟨rfl, rfl⟩⟩
    · exact arbiterKept_decideClassed s _ r

theorem arbiterKept_redecideAt (c : ClassId) : ArbiterKept s (redecideAt c s) := by
  rcases redecideAt_cases s c with e | e <;> rw [e]
  · exact .refl s
  · exact arbiterKept_decidePresented s

theorem arbiterKept_testDrain : ArbiterKept s (testDrain s) := by
  rcases testDrain_cases s with e | ⟨-, -, e⟩ <;> rw [e]
  · exact .refl s
  · exact ⟨rfl, rfl, .inr ⟨rfl, rfl⟩⟩

theorem arbiterKept_completionNotice (c : ClassId) (f : Flight) (st : RespStatus) :
    ArbiterKept s (completionNotice c f st s) := by
  obtain ⟨he, hu, -, hs, hr⟩ := completionNotice_rest c f st s
  exact ⟨he, hs, .inr ⟨hu, hr⟩⟩

/-! ### The end of a request's life, and the passing of a live response -/

/-- What the notice of a completion brings with it. -/
theorem arbiterKept_notice (c : ClassId) (f : Flight) (st : RespStatus) :
    ArbiterKept s (testDrain (redecideAt c (completionNotice c f st s))) :=
  ((arbiterKept_completionNotice s c f st).trans (arbiterKept_redecideAt _ c)).trans (arbiterKept_testDrain _)

theorem arbiterKept_completeEntry (k : EntryIndex) (f : Flight) (st : RespStatus) :
    ArbiterKept (s.setEntry k none) (completeEntry k f st s) := by
  unfold completeEntry
  dsimp only
  split
  · exact arbiterKept_testDrain _
  · next c _ =>
    exact .trans (t := lowerOutstanding c (s.setEntry k none)) ⟨rfl, rfl, .inr ⟨rfl, rfl⟩⟩ (arbiterKept_notice _ c f st)

theorem arbiterKept_loseRequest (k : EntryIndex) (f : Flight) :
    ArbiterKept (s.setEntry k (some (abandonedFlight f))) (loseRequest k f s) := by
  unfold loseRequest
  dsimp only
  split
  · exact arbiterKept_testDrain _
  · next c _ =>
    refine .trans (t := (lowerOutstanding c (s.setEntry k (some (abandonedFlight f)))).updCls c (raiseAt .timeout))
      ⟨rfl, rfl, .inr ⟨rfl, rfl⟩⟩ (arbiterKept_notice _ c f .timeout)

theorem completeEntry_busy {s : State} (h : s.upResp ≠ .free) (k : EntryIndex) (f : Flight) (st : RespStatus) :
    (completeEntry k f st s).upResp ≠ .free :=
  (arbiterKept_completeEntry s k f st).busy h

theorem passFirst_busy (b : DownBeat) (f : Flight) : (passFirst b f s).upResp ≠ .free := by
  unfold passFirst
  dsimp only
  split
  · exact completeEntry_busy (by nofun) _ _ _
  · split
    · exact completeEntry_busy (by nofun) _ _ _
    · nofun

/-! ### The choice of the arbiter (R120) -/

/-- After its choice the arbiter is busy, or no source waits. -/
theorem arbiterChosen_arbitrate : ArbiterChosen (arbitrate s) := by
  by_cases hg : s.refused ≠ none ∨ ¬ NothingOwed s
  · rw [arbitrate_of_generated s hg]
    exact fun hu => absurd hu (chooseGenerated_busy hg)
  · rw [not_or, not_not, not_not] at hg
    have hsame : chooseGenerated s = s := by
      by_cases hu : s.upResp = .free
      · simp [chooseGenerated, hu, hg.1, (lowestOwed_eq_none s).2 hg.2]
      · exact chooseGenerated_of_busy s hu
    rw [arbitrate, hsame]
    by_cases hw : LiveWaits s
    · obtain ⟨b, f, hb, hf, hp⟩ := hw
      by_cases hu : s.upResp = .free
      · have e : chooseLive s = passFirst b f { s with standing := none } := by
          simp [chooseLive, hu, hb, hf, hp]
        rw [e]
        exact fun hu => absurd hu (passFirst_busy _ b f)
      · have e : chooseLive s = s := by simp [chooseLive, hu]
        rw [e]
        exact fun h => absurd h hu
    · rcases chooseLive_cases s with e | ⟨-, b, f, hb, hf, hp, -⟩
      · rw [e]
        exact fun _ => ⟨hg.1, hg.2, hw⟩
      · exact absurd ⟨b, f, hb, hf, hp⟩ hw

theorem ArbiterChosen.of_busy {s : State} (h : s.upResp ≠ .free) : ArbiterChosen s := fun hu => absurd hu h

/-- The abandonment owes a TIMEOUT response (R114). -/
theorem not_nothingOwed_loseRequest (k : EntryIndex) (f : Flight) : ¬ NothingOwed (loseRequest k f s) := by
  intro hn
  have he : (loseRequest k f s).entry k = some (abandonedFlight f) := by
    rw [State.entry, (arbiterKept_loseRequest s k f).entries]
    exact State.entry_setEntry_same s k _
  cases hn k _ he

/-- The TIMEOUT response that an abandonment owes keeps the arbiter busy. -/
theorem arbiterChosen_abandonEntry (k : EntryIndex) (f : Flight) : ArbiterChosen (abandonEntry k f s) :=
  .of_busy (chooseGenerated_busy (.inr (not_nothingOwed_loseRequest s k f)))

end

/-! ### The changes of one entry and of the standing beat -/

section
variable {s : State} (h : ArbiterChosen s)
include h

/-- A change of one entry that owes no response and makes none PENDING. -/
theorem ArbiterChosen.setEntry {k : EntryIndex} {e : Option Flight}
    (he : ∀ f, e = some f → f.owed = true → ∃ g, s.entry k = some g ∧ g.owed = true)
    (hp : ∀ b f, s.standing = some b → b.tag = k → e = some f → f.phase = .pending →
      ∃ g, s.entry k = some g ∧ g.phase = .pending) : ArbiterChosen (s.setEntry k e) := by
  intro hu
  obtain ⟨hr, hn, hl⟩ := h hu
  refine ⟨hr, fun j f hj => ?_, fun ⟨b, f, hb, hf, hfp⟩ => hl ?_⟩
  · rw [State.entry_setEntry] at hj
    split at hj
    · by_contra ho
      obtain ⟨g, hg, hgo⟩ := he f hj (by simpa using ho)
      rw [hn k g hg] at hgo
      cases hgo
    · exact hn j f hj
  · rw [State.entry_setEntry] at hf
    split at hf
    · next hk =>
      obtain ⟨g, hg, hgp⟩ := hp b f hb hk hf hfp
      exact ⟨b, g, hb, hk ▸ hg, hgp⟩
    · exact ⟨b, f, hb, hf, hfp⟩

theorem ArbiterChosen.consumeLate (k : EntryIndex) : ArbiterChosen (consumeLate k s) := by
  rcases consumeLate_cases s k with e | ⟨f, he, hp, e⟩ <;> rw [e]
  · exact h
  · refine h.setEntry (fun g hg _ => ?_) fun b g _ _ hg hgp => ?_
    · split at hg
      · next ho => exact ⟨f, he, ho⟩
      · cases hg
    · split at hg <;> cases hg
      rw [hp] at hgp
      cases hgp

theorem ArbiterChosen.unstand : ArbiterChosen { s with standing := none } := fun hu => by
  obtain ⟨hr, hn, -⟩ := h hu
  exact ⟨hr, hn, fun ⟨b, f, hb, _⟩ => by cases hb⟩

theorem ArbiterChosen.noteLate (c : Option ClassId) : ArbiterChosen (noteLate c s) := by
  cases c <;> exact h

theorem ArbiterChosen.lateBeat (b : DownBeat) : ArbiterChosen (lateBeat b s) := by
  unfold Machine.lateBeat
  split
  · next k _ =>
    split
    · exact ArbiterChosen.consumeLate (s := { s with discard := none }) h k
    · exact h
  · exact h
  · split
    · exact h
    · dsimp only
      split
      · next f _ =>
        split
        · unfold beginLate
          split
          · exact (h.unstand.noteLate f.cls).consumeLate _
          · exact h.unstand.noteLate f.cls
        · exact h
      · exact h

theorem ArbiterChosen.beginStray (ends : Bool) : ArbiterChosen (beginStray ends s) := by
  cases ends <;> exact h

theorem ArbiterChosen.strayBeat (b : DownBeat) : ArbiterChosen (strayBeat b s) := by
  unfold Machine.strayBeat
  split
  · split <;> exact h
  · exact h
  · split
    · exact h
    · dsimp only
      split
      · exact h.unstand.beginStray _
      · split
        · exact h.unstand.beginStray _
        · exact h

theorem ArbiterChosen.passNext (b : DownBeat) : ArbiterChosen (passNext b s) := by
  unfold Machine.passNext
  split
  · dsimp only
    split
    · split
      · exact .of_busy (completeEntry_busy (by nofun) _ _ _)
      · exact .of_busy nofun
    · exact .of_busy nofun
  · exact h

theorem ArbiterChosen.takeGenerated : ArbiterChosen (takeGenerated s) := by
  unfold Machine.takeGenerated
  split
  · next source tag n _ =>
    split
    · cases source <;> exact arbiterChosen_arbitrate _
    · exact .of_busy nofun
  · exact h

theorem ArbiterChosen.takeHeld : ArbiterChosen (takeHeld s) := by
  unfold Machine.takeHeld
  split
  · exact arbiterChosen_arbitrate _
  · exact .of_busy nofun
  · exact h

end

/-! ### Every step -/

/-- What the classes alone change is not read. -/
theorem keptOwn_arbiterChosen : KeptOwn ArbiterChosen where
  toKeptClasses := .of_periods_unread fun _ => Iff.rfl
  decide s h := (arbiterKept_decidePresented s).chosen h
  abandon s k f _ _ _ := arbiterChosen_abandonEntry s k f
  sample _ line _ h := by cases line <;> exact h
  drain s h := (arbiterKept_testDrain s).chosen h
  offered _ _ _ h := h
  data s place n d _ h := by cases place <;> exact h
  respond _ p _ := arbiterChosen_arbitrate _
  passNext _ b h := h.passNext b
  takeGenerated _ h := h.takeGenerated
  takeHeld _ h := h.takeHeld
  lateBeat _ b h := h.lateBeat b
  strayBeat _ b h := h.strayBeat b
  map _ _ h := h
  port _ _ h := h
  filterSetting _ line _ _ _ _ h := by cases line <;> exact h
  tickDiv _ _ h := h
  edge _ _ _ _ _ _ h := h
  lostZero _ h := h
  enables _ _ h := h
  snapshot _ _ h := h
  pop _ _ _ _ h := h
  clearGlobal _ h := h
  quiesceState _ _ _ h := h
  regulator s h := by
    obtain ⟨he, hu, -, hs, hr, -⟩ := regulatorReset_rest s
    exact ArbiterKept.chosen ⟨he, hs, .inr ⟨hu, hr⟩⟩ h
  releaseReset _ _ _ h := h

/-- The choice of the response arbiter with the beat that it reads. -/
def ResponsesSettled (s : State) : Prop := ArbiterChosen s ∧ StandingLegal s

/-- A new entry is that of no standing beat, and owes no response. -/
theorem ArbiterChosen.allocates {s : State} (h : ArbiterChosen s) (hs : StandingLegal s) {k : EntryIndex}
    (hk : lowestFree s = some k) (a : Accepted) : ArbiterChosen (s.setEntry k (some (flightOf s a))) := by
  refine h.setEntry (fun f hf ho => ?_) fun b f hb hbk _ _ => ?_
  · cases hf
    cases ho
  · obtain ⟨-, -, g, hg, -⟩ := hs b hb
    rw [hbk, entry_of_lowestFree hk] at hg
    cases hg

theorem keptSteps_responsesSettled : KeptSteps ResponsesSettled where
  own _ _ hu h := ⟨hu _ keptOwn_arbiterChosen h.1, ownChange_standingLegal hu h.2⟩
  full _ h := h
  through s k a ht hk hd h := ⟨h.1.allocates h.2 hk a, keptByGrants_standingLegal.1 s k a ht hk hd h.2⟩
  head s n k a rest hn hk hq hd h :=
    ⟨h.1.allocates h.2 hk _, keptByGrants_standingLegal.2 s n k a rest hn hk hq hd h.2⟩
  taken _ h := h
  sent _ _ _ h := h
  pins l := ⟨fun _ => ⟨rfl, fun k f hf => absurd ((entry_pinReset l k).symm.trans hf) nofun,
    fun ⟨_, _, hb, _⟩ => by cases hb⟩, .of_none rfl⟩
  queue _ _ h := h

/-! ### The choice of the downstream request arbiter (R94) -/

theorem choiceClosed_of_happened {s t : State} (h : ¬ ChoiceOpen s) (ht : Happened s t) : ¬ ChoiceOpen t := by
  obtain ⟨u, p, -, rfl⟩ := ht
  exact follow_closed s (noteTableFull s u) h

theorem choiceClosed_of_happening {s t : State} {f : State → State} (h : ¬ ChoiceOpen s) (e : happening s f = .next t) :
    ¬ ChoiceOpen t := by
  rcases happening_cases s t e with rfl | rfl
  · exact h
  · exact follow_closed s _ h

theorem eligible_of_empty {s : State} {n : ClassId} (h : (s.cls n).queue = []) : eligible s n = false := by
  rw [eligible, headReady_of_queue_nil h, Bool.and_false]

theorem arbiterBlind_queue (s : State) (l : List Instr) : ArbiterBlind s { s with pending := l } where
  free := lowestFree_congr rfl
  through := rfl
  down := rfl
  ready := headReady_congr (fun _ => ⟨rfl, rfl, rfl, rfl, rfl⟩) rfl rfl
  flags := rfl
  position := rfl

theorem choiceClosed_of_exec {c : Instr} {s t : State} (h : ¬ ChoiceOpen s) (e : exec c s = .next t) :
    ¬ ChoiceOpen t := by
  by_cases hc : chainsOrForwards c
  · cases c <;> try exact hc.elim
    case tick => exact (chainKept_of_tick e).closed h
    case filterEdge => exact (links_of_filterEdge e).chainKept.closed h
    case grantThroughSlot => exact choiceClosed_of_happening (f := grantThrough) h e
    case grantHead => exact choiceClosed_of_happening (f := grantQueues) h e
    case downstreamRequestTaken => exact choiceClosed_of_happening (f := takeForward) h e
    case pinReset =>
      cases e
      rintro ⟨-, -, ht | ⟨c, hc⟩⟩
      · exact ht rfl
      · rw [eligible_of_empty (congrArg ClassRec.queue (cls_pinReset s.pending c))] at hc
        cases hc
  · exact choiceClosed_of_happened h (happened_of_exec hc e)

theorem choiceClosed_of_step {s t : State} (h : ¬ ChoiceOpen s) (e : step s = .next t) : ¬ ChoiceOpen t := by
  unfold step at e
  split at e
  · cases e
    exact h
  · exact choiceClosed_of_exec ((arbiterBlind_queue s _).chainKept.closed h) e

/-- Settles O58, each part by an invariant of its own; the choice of the response arbiter with the standing beat. -/
theorem entriesKept : Obligations.EntriesKept := fun _ _ e =>
  ⟨fun h => entriesLegal_of_step h e, fun h => streamingOwned_of_step h e, fun h => stallLeavesSlotsEmpty_of_step h e,
    fun h h' => keptSteps_responsesSettled.keptStep ⟨h, h'⟩ e, fun h => choiceClosed_of_step h e⟩

end Sys2Proof.Machine
end

section
/-! What no command but its own changes (R13, R88, R94, R100, R106, R107): the class map, the hold queues but for grants, and
the items of an entry in use. -/

namespace Sys2Proof.Machine

/-! ### Lists that grow at their end -/

/-- `m` is `l` with more behind it. -/
def Grows (l m : List Accepted) : Prop := ∃ x, m = l ++ x

theorem Grows.refl (l : List Accepted) : Grows l l := ⟨[], (List.append_nil l).symm⟩

theorem Grows.trans {l m n : List Accepted} (h : Grows l m) (h' : Grows m n) : Grows l n := by
  obtain ⟨x, rfl⟩ := h
  obtain ⟨y, rfl⟩ := h'
  exact ⟨x ++ y, List.append_assoc l x y⟩

/-- What grows loses its head alike. -/
theorem Grows.tail {l m : List Accepted} (h : Grows l m) : Grows l.tail m.tail := by
  obtain ⟨x, rfl⟩ := h
  cases l with
  | nil => exact ⟨x.tail, rfl⟩
  | cons a l => exact ⟨x, rfl⟩

/-- Data that arrives with the newest held request is none of its items. -/
theorem heldItems_changeLast (d : Data) : ∀ q, heldItems (changeLast (addData d) q) = heldItems q
  | [] => rfl
  | [_] => rfl
  | _ :: b :: q => congrArg (List.cons _) (heldItems_changeLast d (b :: q))

/-! ### The hold queues and the entries over an own change -/

/-- The held requests of class `n` less their data. -/
def held (s : State) (n : ClassId) : List Accepted := heldItems (s.cls n).queue

/-- Every hold queue has grown at its end. -/
def QueuesGrow (s t : State) : Prop := ∀ n, Grows (held s n) (held t n)

/-- What an entry was filled with. -/
def flightItems (f : Flight) : Flight :=
  { f with phase := .pending, firstBeat := none, owed := false, lateConsumed := false }

theorem flightItems_eq_iff {f g : Flight} : flightItems g = flightItems f ↔ g = { f with
    phase := g.phase
    firstBeat := g.firstBeat
    owed := g.owed
    lateConsumed := g.lateConsumed } := by
  obtain ⟨⟩ := f
  obtain ⟨⟩ := g
  simp [flightItems]

/-- Entry `k` is FREE in `t` or holds what it held in `s`. -/
def EntryStays (k : EntryIndex) (s t : State) : Prop :=
  ∀ g, t.entry k = some g → ∃ f, s.entry k = some f ∧ flightItems g = flightItems f

theorem EntryStays.trans {k : EntryIndex} {s t u : State} (h : EntryStays k s t) (h' : EntryStays k t u) :
    EntryStays k s u := fun g hg => by
  obtain ⟨f, hf, hfg⟩ := h' g hg
  obtain ⟨e, he, hef⟩ := h f hf
  exact ⟨e, he, hfg.trans hef⟩

/-- No entry has been filled. -/
def EntriesStay (s t : State) : Prop := ∀ k, EntryStays k s t

section
variable {s t : State}

theorem QueuesGrow.trans {u : State} (h : QueuesGrow s t) (h' : QueuesGrow t u) : QueuesGrow s u :=
  fun n => (h n).trans (h' n)

theorem QueuesGrow.of_queues {u : State} (h : QueuesGrow s t) (hq : ∀ n, (u.cls n).queue = (t.cls n).queue) :
    QueuesGrow s u := fun n => by
  have hu : held u n = held t n := congrArg heldItems (hq n)
  rw [hu]
  exact h n

theorem queuesGrow_setCls {u : State} {n : ClassId} {k : ClassRec} (hu : u.classes = s.classes)
    (hk : Grows (heldItems (s.cls n).queue) (heldItems k.queue)) : QueuesGrow s (u.setCls n k) :=
  forall_setCls (s := u) (Q := fun c l => Grows (held s c) (heldItems l.queue))
    (fun c => by rw [State.cls, hu]; exact .refl _) hk

theorem queuesGrow_joinQueue (n : ClassId) (r : Request) : QueuesGrow s (joinQueue n r s) :=
  queuesGrow_setCls rfl ⟨heldItems [acceptedRequest s r (some n) false r.urgency], List.map_append⟩

theorem queuesGrow_storeBeat (place : Place) (d : Data) : QueuesGrow s (storeBeat place d s) := by
  cases place with
  | held n => exact queuesGrow_setCls rfl (by rw [heldItems_changeLast]; exact .refl _)
  | _ => exact fun n => .refl _

end

variable (s : State)

theorem kept_queuesGrow : Kept (QueuesGrow s) where
  toKeptClasses := .of_traffic fun h ht => h.of_queues ht.queue
  offered _ _ _ h := h
  bypass _ _ _ _ _ _ h := h
  unregulated _ _ _ _ _ _ _ _ _ h := h.of_queues (queue_setCls rfl rfl)
  charged _ _ _ _ _ _ _ _ _ _ h := h.of_queues (queue_setCls rfl rfl)
  marked _ _ _ _ _ _ _ _ _ h := h.of_queues (queue_setCls rfl rfl)
  refuse _ _ _ _ _ _ h := h.of_queues (queue_setCls rfl rfl)
  join _ r _ n _ _ _ h := h.trans (queuesGrow_joinQueue n r)
  stall _ _ _ _ _ _ h := h
  data _ place _ d _ h := h.trans (queuesGrow_storeBeat place d)
  toKeptResponses := .of_unread (fun _ => Iff.rfl) (fun _ _ h => h.of_queues (queue_setCls rfl rfl)) (fun _ h => h)
    fun t c f st h => h.of_queues fun d => (completionNotice_traffic c f st t d).1
  toKeptOthers := .of_unread (fun _ => Iff.rfl) fun t h => h.of_queues fun c => (sameTraffic_regulatorReset_queue t c).1

section
variable {s} {t : State} (h : EntriesStay s t)
include h

theorem EntriesStay.of_entries {u : State} (he : u.entries = t.entries) : EntriesStay s u := fun k g hg => by
  rw [State.entry, he] at hg
  exact h k g hg

theorem EntriesStay.setEntry {k : EntryIndex} {e : Option Flight}
    (he : ∀ g, e = some g → ∃ f, t.entry k = some f ∧ flightItems g = flightItems f) :
    EntriesStay s (t.setEntry k e) := by
  intro j g hg
  rw [State.entry_setEntry] at hg
  split at hg
  · next hj =>
    obtain ⟨f, hf, hgf⟩ := he g hg
    obtain ⟨x, hx, hfx⟩ := h k f hf
    exact ⟨x, hj ▸ hx, hgf.trans hfx⟩
  · exact h j g hg

theorem EntriesStay.freeEntry (k : EntryIndex) (f : Flight) : EntriesStay s (freeEntry k f t) := by
  have hnone := h.setEntry (k := k) (e := none) nofun
  rcases freeEntry_cases t k f with e | ⟨c, -, e⟩ <;> rw [e]
  · exact hnone
  · exact hnone

theorem EntriesStay.loseEntry {k : EntryIndex} {f : Flight} (he : t.entry k = some f) :
    EntriesStay s (loseEntry k f t) := by
  have hset := h.setEntry (k := k) (e := some (abandonedFlight f)) fun g hg => ⟨f, he, by cases hg; rfl⟩
  rcases loseEntry_cases t k f with e | ⟨c, -, e⟩ <;> rw [e]
  · exact hset
  · exact hset

theorem EntriesStay.consumeLate (k : EntryIndex) : EntriesStay s (consumeLate k t) := by
  rcases consumeLate_cases t k with e | ⟨f, he, -, e⟩ <;> rw [e]
  · exact h
  · refine h.setEntry fun g hg => ⟨f, he, ?_⟩
    split at hg <;> cases hg
    rfl

theorem EntriesStay.clearOwed (k : EntryIndex) : EntriesStay s (clearOwed k t) := by
  rcases clearOwed_cases t k with e | ⟨f, he, -, e⟩ <;> rw [e]
  · exact h
  · refine h.setEntry fun g hg => ⟨f, he, ?_⟩
    split at hg <;> cases hg
    rfl

end

theorem keptResponses_entriesStay : KeptResponses (EntriesStay s) where
  taken _ h := h
  sent _ _ _ h := h
  generate _ _ _ _ _ h := h
  generated _ _ _ _ _ _ h := h
  refusedDone _ _ _ _ h := h
  timeoutDone t k _ _ _ h := EntriesStay.clearOwed (t := { t with upResp := .free }) h k
  heldTaken _ _ _ _ _ _ h := h
  release _ _ _ _ _ _ h := h
  stand _ _ _ _ _ _ h := h
  unstand _ h := h
  firstBeat t k _ b st _ _ he _ _ h :=
    EntriesStay.setEntry (t := holdBeat k b st false t) h fun _ hg => ⟨_, he, by cases hg; rfl⟩
  firstEnds t k f b st _ _ _ _ h := EntriesStay.freeEntry (t := holdBeat k b st true t) h k f
  nextBeat _ _ _ _ _ _ _ _ _ h := h
  nextEnds t k _ _ _ f b st _ _ _ _ h := EntriesStay.freeEntry (t := holdBeat k b st true t) h k f
  nextEndsAlone _ _ _ _ _ _ _ _ _ _ h := h
  notice t c f st h := h.of_entries (completionNotice_slots c f st t).2
  lose _ _ _ he _ h := h.loseEntry he
  discarding _ _ _ h := h
  discarded _ h := h
  consume _ k _ h := h.consumeLate k
  consumeRest t k _ h := EntriesStay.consumeLate (t := { t with discard := none }) h k

theorem kept_entriesStay : Kept (EntriesStay s) where
  toKeptClasses := .of_periods_unread fun _ => Iff.rfl
  toKeptAdmission := .of_unread fun _ => Iff.rfl
  toKeptResponses := keptResponses_entriesStay s
  toKeptOthers := .of_unread (fun _ => Iff.rfl) fun t h => h.of_entries (regulatorReset_rest t).1

/-- An own change lets the queues grow and fills no entry. -/
structure Carried (t : State) : Prop where
  queues : QueuesGrow s t
  entries : EntriesStay s t

theorem Carried.refl : Carried s s := ⟨fun _ => .refl _, fun _ g hg => ⟨g, hg, rfl⟩⟩

variable {s} {t : State}

theorem Carried.trans {u : State} (h : Carried s t) (h' : Carried t u) : Carried s u :=
  ⟨h.queues.trans h'.queues, fun k => (h.entries k).trans (h'.entries k)⟩

theorem Carried.with_flags (h : Carried s t) (fl : GlobalFlags) : Carried s { t with gflags := fl } := ⟨h.queues, h.entries⟩

theorem Carried.with_port (h : Carried s t) (p : Port) : Carried s { t with port := p } := ⟨h.queues, h.entries⟩

theorem carried_of_ownChange (h : OwnChange s t) : Carried s t :=
  ⟨h _ ((kept_queuesGrow s).own fun _ _ hs => hs) (Carried.refl s).queues,
    h _ ((kept_entriesStay s).own fun _ _ hs => hs) (Carried.refl s).entries⟩

/-! ### What the arbiter of the downstream channel has granted -/

/-- The downstream request channel, the position and the alternation mark. -/
def granted (s : State) : Option Forward × ClassId × Source := (s.down, s.rrPos, s.altMark)

theorem granted_of_eraseDecision (h : eraseDecision t = eraseDecision s) : granted t = granted s :=
  (congrArg granted h :)

theorem granted_testDrain (s : State) : granted (testDrain s) = granted s := by
  rcases testDrain_cases s with e | ⟨-, -, e⟩ <;> rw [e]
  rfl

theorem granted_redecideAt (s : State) (c : ClassId) : granted (redecideAt c s) = granted s := by
  rcases redecideAt_cases s c with e | e <;> rw [e]
  exact granted_of_eraseDecision (decidePresented_leaves s)

theorem granted_completionNotice (s : State) (c : ClassId) (f : Flight) (st : RespStatus) :
    granted (completionNotice c f st s) = granted s := by
  rcases completionNotice_cases s c f st with e | ⟨-, e⟩ | ⟨-, e⟩ <;> rw [e] <;> rfl

theorem granted_abandonEntry (s : State) (k : EntryIndex) (f : Flight) : granted (abandonEntry k f s) = granted s := by
  rw [abandonEntry, granted_of_eraseDecision (chooseGenerated_leaves _)]
  unfold loseRequest
  dsimp only
  split
  · exact granted_testDrain _
  · rw [granted_testDrain, granted_redecideAt, granted_completionNotice]
    rfl

theorem keptOps_granted (x : Option Forward × ClassId × Source) : KeptOps fun t => granted t = x where
  toKeptClasses := .of_traffic fun h ht => (congrArg granted ht.rest :).trans h
  decide t h := (granted_of_eraseDecision (decidePresented_leaves t)).trans h
  abandon t k f _ _ h := (granted_abandonEntry t k f).trans h
  sample _ line _ h := by cases line <;> exact h

theorem granted_of_opsChange (h : OpsChange s t) : granted t = granted s := h _ (keptOps_granted _) rfl

/-! ### The grants -/

/-- A grant of class `o`, or of the through slot, has filled entry `k` and put a new forward on the channel. -/
structure Moves (o : Option ClassId) (k : EntryIndex) (s t : State) : Prop where
  down : ∃ w, t.down = some w ∧ w.sent = 0 ∧ w.header.tag = k
  head : ∀ n, o = some n → t.rrPos = n ∧ t.altMark = .throughSlot ∧ Grows (held s n).tail (held t n)
  others : ∀ n, o ≠ some n → Grows (held s n) (held t n)
  entries : ∀ j, j ≠ k → EntryStays j s t

section
variable {o : Option ClassId} {k : EntryIndex}

theorem Moves.steady {u : State} (h : Moves o k s t) (hc : Carried t u) (hg : granted u = granted t) : Moves o k s u := by
  obtain ⟨hd, hr⟩ := Prod.mk.inj hg
  obtain ⟨hp, hm⟩ := Prod.mk.inj hr
  refine ⟨hd ▸ h.down, fun n hn => ?_, fun n hn => (h.others n hn).trans (hc.queues n),
    fun j hj => (h.entries j hj).trans (hc.entries j)⟩
  obtain ⟨h1, h2, h3⟩ := h.head n hn
  exact ⟨hp.trans h1, hm.trans h2, h3.trans (hc.queues n)⟩

theorem Moves.after {r : State} (h : Moves o k s t) (hc : Carried r s) : Moves o k r t := by
  refine ⟨h.down, fun n hn => ?_, fun n hn => (hc.queues n).trans (h.others n hn),
    fun j hj => (hc.entries j).trans (h.entries j hj)⟩
  obtain ⟨h1, h2, h3⟩ := h.head n hn
  exact ⟨h1, h2, (hc.queues n).tail.trans h3⟩

theorem Moves.full (h : Moves o k s t) (u : State) : Moves o k s (noteTableFull u t) := by
  rw [noteTableFull_eq]
  exact ⟨h.down, h.head, h.others, h.entries⟩

end

theorem moves_takeThrough (k : EntryIndex) (a : Accepted) : Moves none k s (takeThrough k a s) where
  down := ⟨_, rfl, rfl, rfl⟩
  head _ hn := by cases hn
  others _ _ := .refl _
  entries j hj g hg := ⟨g, (State.entry_setEntry_ne s _ hj).symm.trans hg, rfl⟩

theorem moves_takeHead {c : ClassId} {k : EntryIndex} {a : Accepted} {rest : List Accepted}
    (hq : (s.cls c).queue = a :: rest) : Moves (some c) k s (takeHead c k a rest s) where
  down := ⟨_, rfl, rfl, rfl⟩
  head n hn := by
    cases hn
    have he : ((takeHead c k a rest s).cls c).queue = rest :=
      congrArg ClassRec.queue (State.cls_setCls_same (forwardOut k { a with marked := false } s) c _)
    refine ⟨rfl, rfl, ?_⟩
    rw [held, held, hq, he]
    exact .refl _
  others n hn := by
    have hne : n ≠ c := fun h => hn (congrArg some h.symm)
    have he : ((takeHead c k a rest s).cls n).queue = (s.cls n).queue :=
      congrArg ClassRec.queue (State.cls_setCls_ne (forwardOut k { a with marked := false } s) _ hne)
    rw [held, held, he]
    exact .refl _
  entries j hj g hg := ⟨g, (State.entry_setEntry_ne s _ hj).symm.trans hg, rfl⟩

/-- A grant leaves the state, or fills a FREE entry on the free channel. -/
def Grants (s t : State) : Prop := t = s ∨ (s.down = none ∧ ∃ o k, s.entry k = none ∧ Moves o k s t)

theorem grants_grantThrough (s : State) : Grants s (grantThrough s) := by
  unfold grantThrough
  split
  · next a k _ hk =>
    split
    · next hg =>
      simp only [throughGranted, Bool.and_eq_true, Option.isNone_iff_eq_none] at hg
      refine .inr ⟨hg.1, none, k, entry_of_lowestFree hk, (moves_takeThrough k a).steady (carried_of_ownChange ?_) ?_⟩
      · intro P h hs
        refine h.drain _ ?_
        unfold atAllClasses
        split
        · exact h.keptRedecide (h.notices _ _ _ hs)
        · exact h.notices _ _ _ hs
      · exact (granted_testDrain _).trans (granted_of_eraseDecision (atAllClasses_leaves _ _))
    · exact .inl rfl
  · exact .inl rfl

theorem grants_grantQueues (s : State) : Grants s (grantQueues s) := by
  unfold grantQueues
  split
  · next c k _ hk =>
    split
    · next a rest hq =>
      split
      · next hg =>
        simp only [queuesGranted, Bool.and_eq_true, Option.isNone_iff_eq_none] at hg
        refine .inr ⟨hg.1, some c, k, entry_of_lowestFree hk, (moves_takeHead hq).steady (carried_of_ownChange ?_) ?_⟩
        · exact fun P h hs => h.drain _ (h.keptRedecide (h.notices _ _ _ hs))
        · refine (granted_testDrain _).trans (granted_of_eraseDecision ?_)
          rw [redecide_leaves, deliverAll_eq, mapCls_leaves]
      · exact .inl rfl
    · exact .inl rfl
  · exact .inl rfl

/-- What follows a happening: a TABLE-FULL at most, or a grant that fills a FREE entry on the free channel. -/
theorem follow_grants (s u : State) : (∃ fl, follow s (noteTableFull s u) = { u with gflags := fl }) ∨
    (u.down = none ∧ ∃ o k, u.entry k = none ∧ Moves o k u (follow s (noteTableFull s u))) := by
  have hsame : ∃ fl, noteTableFull s u = { u with gflags := fl } := ⟨_, noteTableFull_eq s u⟩
  obtain ⟨fl, hfl⟩ := hsame
  rw [hfl]
  rcases follow_cases s { u with gflags := fl } with e | ⟨-, ho, e⟩ <;> rw [e]
  · exact .inl ⟨fl, rfl⟩
  · have hg : Grants { u with gflags := fl } (grantNext { u with gflags := fl }) := by
      rcases grantNext_cases { u with gflags := fl } with e | e <;> rw [e]
      · exact grants_grantThrough _
      · exact grants_grantQueues _
    rcases hg with e | ⟨hd, o, k, hk, hm⟩
    · have hdown := grantNext_down _ ho
      rw [e] at hdown
      exact absurd ho.1 hdown
    · exact .inr ⟨hd, o, k, hk, (hm.full _).after ((Carried.refl u).with_flags fl)⟩

/-! ### Chains -/

/-- A chain carries the queues and the entries on, and grants once at most. -/
def ChainGrants (s t : State) : Prop :=
  (Carried s t ∧ granted t = granted s) ∨ (s.down = none ∧ ∃ o k, Moves o k s t)

theorem ChainGrants.trans {u : State} (h : ChainGrants s t) (h' : ChainGrants t u) : ChainGrants s u := by
  rcases h' with ⟨hc', hg'⟩ | ⟨hd', o', k', hm'⟩
  · rcases h with ⟨hc, hg⟩ | ⟨hd, o, k, hm⟩
    · exact .inl ⟨hc.trans hc', hg'.trans hg⟩
    · exact .inr ⟨hd, o, k, hm.steady hc' hg'⟩
  · rcases h with ⟨hc, hg⟩ | ⟨-, _, _, hm⟩
    · exact .inr ⟨(Prod.mk.inj hg).1.symm.trans hd', o', k', hm'.after hc⟩
    · obtain ⟨w, hw, -⟩ := hm.down
      rw [hw] at hd'
      cases hd'

theorem chainGrants_of_opsChange (h : OpsChange s t) : ChainGrants s t :=
  .inl ⟨carried_of_ownChange h.own, granted_of_opsChange h⟩

theorem Link.chainGrants (h : Link s t) : ChainGrants s t := by
  cases h with
  | @happens u hu =>
    have hc := carried_of_ownChange hu.own
    have hg := granted_of_opsChange hu
    rcases follow_grants s u with ⟨fl, e⟩ | ⟨hd, o, k, -, hm⟩
    · rw [e]
      exact .inl ⟨hc.with_flags fl, hg⟩
    · exact .inr ⟨(Prod.mk.inj hg).1.symm.trans hd, o, k, hm.after hc⟩
  | samples line raw => exact chainGrants_of_opsChange fun _ h hs => h.keptSampleLine line raw hs

theorem Links.chainGrants (h : Links s t) : ChainGrants s t := by
  induction h with
  | refl => exact chainGrants_of_opsChange fun _ _ hs => hs
  | tail _ hl ih => exact ih.trans hl.chainGrants

/-! ### Every command -/

/-- What a command other than pin reset leaves of the queues and the entries. -/
def CommandGrants (c : Instr) (s t : State) : Prop := Carried s t ∨
  ∃ o k, (s.down = none ∨ (c = .downstreamRequestTaken ∧ s.entry k = none)) ∧ Moves o k s t

theorem ChainGrants.command (c : Instr) (h : ChainGrants s t) : CommandGrants c s t := by
  rcases h with ⟨hc, -⟩ | ⟨hd, o, k, hm⟩
  · exact .inl hc
  · exact .inr ⟨o, k, .inl hd, hm⟩

theorem chainGrants_of_tick {f g : Level} {l : List ClassId} (e : exec (.tick f g l) s = .next t) : ChainGrants s t := by
  cases hr : s.resetN with
  | low =>
    have hlow : exec (.tick f g l) s = .next s := happening_low _ hr
    rw [hlow] at e
    cases e
    exact chainGrants_of_opsChange fun _ _ hs => hs
  | high =>
    rw [exec_tick_high f g l hr] at e
    rw [← Host.Outcome.next.inj e]
    exact (links_settleTick s).chainGrants.trans (chainGrants_of_opsChange fun _ h hs => h.tick _ f g l hs)

theorem commandGrants_of_happened (c : Instr) (h : Happened s t) : CommandGrants c s t := by
  obtain ⟨u, p, hu, rfl⟩ := h
  have hc := carried_of_ownChange hu
  rcases follow_grants s u with ⟨fl, e⟩ | ⟨hd, o, k, -, hm⟩
  · rw [e]
    exact .inl ((hc.with_flags fl).with_port p)
  · exact .inr ⟨o, k, .inl ((down_eq_none_iff (channelKept_of_ownChange hu).1).1 hd), (hm.after hc).steady ((Carried.refl _).with_port p) rfl⟩

/-- The row of a grant: the grant has taken the channel, so no choice follows. -/
theorem commandGrants_of_grant (c : Instr) {f : State → State} (hf : Grants s (f s)) (e : happening s f = .next t) :
    CommandGrants c s t := by
  rcases happening_cases s t e with rfl | rfl
  · exact .inl (.refl _)
  · rcases hf with e | ⟨hd, o, k, -, hm⟩
    · rw [noted, e, noteTableFull_self, follow_self]
      exact .inl (.refl s)
    · rw [noted]
      rcases follow_grants s (f s) with ⟨fl, e⟩ | ⟨hd', -⟩
      · rw [e]
        exact .inr ⟨o, k, .inl hd, hm.steady ((Carried.refl _).with_flags fl) rfl⟩
      · obtain ⟨w, hw, -⟩ := hm.down
        rw [hw] at hd'
        cases hd'

/-- The forward that has gone leaves the channel to the next choice. -/
theorem commandGrants_of_takeForward (e : exec .downstreamRequestTaken s = .next t) :
    CommandGrants .downstreamRequestTaken s t := by
  rw [exec_downstreamRequestTaken] at e
  rcases happening_cases s t e with rfl | rfl
  · exact .inl (.refl _)
  · obtain ⟨d, hd⟩ : ∃ d, takeForward s = { s with down := d } := by
      rcases takeForward_cases s with e | ⟨f, -, e | e⟩ <;> rw [e] <;> exact ⟨_, rfl⟩
    rw [noted, hd]
    have hc : Carried s { s with down := d } := ⟨(Carried.refl s).queues, (Carried.refl s).entries⟩
    rcases follow_grants s { s with down := d } with ⟨fl, e⟩ | ⟨-, o, k, hk, hm⟩
    · rw [e]
      exact .inl (hc.with_flags fl)
    · exact .inr ⟨o, k, .inr ⟨rfl, hk⟩, hm.after hc⟩

theorem commandGrants_of_exec {c : Instr} (e : exec c s = .next t) (hp : c ≠ .pinReset) : CommandGrants c s t := by
  by_cases hc : chainsOrForwards c
  · cases c <;> try exact hc.elim
    case tick => exact (chainGrants_of_tick e).command _
    case filterEdge => exact (links_of_filterEdge e).chainGrants.command _
    case grantThroughSlot =>
      rw [exec_grantThroughSlot] at e
      exact commandGrants_of_grant _ (grants_grantThrough s) e
    case grantHead =>
      rw [exec_grantHead] at e
      exact commandGrants_of_grant _ (grants_grantQueues s) e
    case downstreamRequestTaken => exact commandGrants_of_takeForward e
    case pinReset => exact absurd rfl hp
  · exact commandGrants_of_happened c (happened_of_exec hc e)

end Sys2Proof.Machine
end

section
/-! The class map is written by its own commands alone (R13): a good frame is the frame of the command that it is judged to be,
and of the effects of all commands only the write of a class map entry changes the map. -/

namespace Sys2Proof.Machine

/-! ### The bits of a frame from its parts (R165) -/

/-- Bits are those of the number that they spell. -/
theorem bits_bitsNat (l : List Bool) {w : Nat} (h : l.length = w) :
    (List.range w).map (BitVec.ofNat w (bitsNat l)).getMsbD = l := by
  subst h
  have hl : (List.range l.length).map (BitVec.ofBoolListBE l).getMsbD = l := by
    refine List.ext_getElem (by simp) fun i h1 h2 => ?_
    simp [BitVec.getMsbD_ofBoolListBE, h2]
  have hn : BitVec.ofNat l.length (bitsNat l) = BitVec.ofBoolListBE l := by
    have hb := bitsNat_bits (BitVec.ofBoolListBE l)
    rw [hl] at hb
    rw [hb, BitVec.ofNat_toNat, BitVec.setWidth_eq]
  rw [hn, hl]

theorem byteBits_bitsByte {l : List Bool} (h : l.length = 8) : byteBits (bitsByte l) = l := bits_bitsNat l h

theorem wordBytes_bitsWord {l : List Bool} (h : l.length = 32) : (wordBytes (bitsWord l)).flatMap byteBits = l := by
  rw [wordBytes_bits]
  exact bits_bitsNat l h

/-- A frame that is judged a command is the frame of that command (R163, R165). -/
theorem commandBits_of_judge {bits : List Bool} {c o f : Byte} {v : Word32} (h : judge bits = .command c o f v) :
    bits = commandBits c o f v := by
  unfold judge at h
  split at h
  · cases h
  · next hlen =>
    split at h
    · cases h
    · next hcheck =>
      rw [not_not] at hlen hcheck
      obtain ⟨rfl, rfl, rfl, rfl⟩ := Verdict.command.inj h
      have hbytes : (bitsByte (bits.take 8) :: bitsByte ((bits.drop 8).take 8) :: bitsByte ((bits.drop 16).take 8) ::
          wordBytes (bitsWord ((bits.drop 24).take 32))).flatMap byteBits = bits.take 56 := by
        simp only [List.flatMap_cons]
        rw [byteBits_bitsByte (by simp; omega), byteBits_bitsByte (by simp; omega), byteBits_bitsByte (by simp; omega),
          wordBytes_bitsWord (by simp; omega)]
        simp only [← List.append_assoc]
        rw [← List.take_add, ← List.take_add, ← List.take_add]
      rw [commandBits, sealBytes, hbytes, ← hcheck, byteBits_bitsByte (by simp; omega), List.take_append_drop]

/-! ### The effects that leave the class map -/

/-- The class map is `m`. -/
def MapIs (m : Vector MapEntry 64) (s : State) : Prop := s.classMap = m

theorem kept_mapIs (m : Vector MapEntry 64) : Kept (MapIs m) where
  toKeptClasses := .of_periods_unread fun _ => Iff.rfl
  toKeptAdmission := .of_unread fun _ => Iff.rfl
  toKeptResponses := .of_unread (fun _ => Iff.rfl) (fun _ _ h => h) (fun _ h => h) fun s c f st h => by
    rcases completionNotice_cases s c f st with e | ⟨-, e⟩ | ⟨-, e⟩ <;> rw [e] <;> exact h
  toKeptOthers := .of_unread (fun _ => Iff.rfl) fun s h => by
    have e : (regulatorReset s).classMap = s.classMap := by rw [regulatorReset_eq]
    exact e.trans h

theorem keptByGrants_mapIs (m : Vector MapEntry 64) : KeptByGrants (MapIs m) :=
  ⟨fun _ _ _ _ _ _ h => h, fun _ _ _ _ _ _ _ _ _ h => h⟩

theorem filterItem_ne_mapEntry {line : Line} {n : Nat} {g : Byte} (h : filterItem line n = .ok (.mapEntry g)) : False := by
  unfold filterItem at h
  split at h <;> cases h

/-- An entry of the class map is an item of object 20h. -/
theorem writableItem_mapEntry {o f g : Byte} (h : writableItem o f = .ok (.mapEntry g)) : o = 0x20 := by
  unfold writableItem at h
  split at h
  · split at h <;> cases h
  · split at h
    case h_1 ho => exact BitVec.eq_of_toNat_eq ho
    case h_3 => exact (filterItem_ne_mapEntry h).elim
    case h_4 => exact (filterItem_ne_mapEntry h).elim
    all_goals (try split at h) <;> cases h

section
variable {m : Vector MapEntry 64} {s : State} (h : MapIs m s)
include h

theorem MapIs.runItemWrite {item : Item} (hi : ∀ f, item ≠ .mapEntry f) (v : Word32) :
    MapIs m (runItemWrite item v s).1 := by
  have hk := kept_mapIs m
  cases item with
  | staging n i => exact hk.keptStagingWrite n i v h
  | mapEntry f => exact absurd rfl (hi f)
  | divider => exact hk.keptTickDivWrite v h
  | filterSetting line x => exact hk.keptFilterWrite line x v h
  | histogramEdge f => exact hk.keptEdgeWrite f v h
  | lostCount => exact hk.keptLostWrite v h
  | enable kind => exact hk.keptEnableWrite kind v h

theorem MapIs.runWriteField {o : Byte} (ho : o ≠ 0x20) (f : Byte) (v : Word32) : MapIs m (runWriteField o f v s).1 := by
  unfold Machine.runWriteField
  split
  · next item hi =>
    refine h.runItemWrite (fun g hg => ho ?_) v
    subst hg
    exact writableItem_mapEntry hi
  · exact h

theorem MapIs.runCode {code o : Byte} (hc : ¬ (code = 0x02 ∧ o = 0x20)) (f : Byte) (v : Word32) :
    MapIs m (runCode code o f v s).1 := by
  have hk := kept_mapIs m
  obtain ⟨run, hrun⟩ : ∃ run, run = Machine.runCode code o f v := ⟨_, rfl⟩
  rw [← hrun]
  unfold Machine.runCode at hrun
  split at hrun <;> subst hrun
  case h_3 hcode => exact h.runWriteField (fun ho => hc ⟨BitVec.eq_of_toNat_eq hcode, ho⟩) f v
  · exact h
  · exact h
  · exact hk.keptCommit o h
  · exact hk.keptDiscard o h
  · exact hk.keptStart o h
  · exact hk.keptStop o h
  · exact hk.keptSetRepeat o v h
  · exact hk.keptSnapshot o v h
  · exact hk.keptPopCapture o h
  · exact hk.keptReadEvents o h
  · exact hk.keptAbandon o h
  · exact hk.keptQuiesce v h
  · exact hk.keptResume h
  · exact h

theorem MapIs.frameClose {bits : List Bool} {t : State} (hb : ∀ f v, bits ≠ commandBits 0x02 0x20 f v)
    (e : exec (.frameClose bits) s = .next t) : MapIs m t := by
  have hk := kept_mapIs m
  rw [exec_frameClose, execFrameClose] at e
  split at e
  · split at e <;> cases e
    · exact hk.keptCloseFrame h h
    · exact hk.keptCloseFrame h h
    · next code o f v hj =>
      refine hk.keptCloseFrame ?_ h
      have hc : ¬ (code = 0x02 ∧ o = 0x20) := by
        rintro ⟨rfl, rfl⟩
        exact hb f v (commandBits_of_judge hj)
      unfold runFrame afterFrame
      split
      · exact hk.keptResetRegulator (keptByGrants_mapIs m) h
      · exact hk.keptNoted (keptByGrants_mapIs m) (f := fun s => (Machine.runCode code o f v s).1)
          (fun hs => MapIs.runCode hs hc f v) h
  · cases e
    exact h

/-- A command that does not write the class map leaves it. -/
theorem MapIs.exec {c : Instr} {t : State} (e : exec c s = .next t) (hp : c ≠ .pinReset)
    (hw : ∀ f v, c ≠ .classMapWrite f v) (hf : ∀ f v, c ≠ .writeField 0x20 f v)
    (hb : ∀ f v, c ≠ .frameClose (commandBits 0x02 0x20 f v)) : MapIs m t := by
  have hk := kept_mapIs m
  have hg := keptByGrants_mapIs m
  by_cases hc : writesMap c
  · cases c <;> try exact hc.elim
    case classMapWrite f v => exact absurd rfl (hw f v)
    case writeField o f v =>
      exact hk.keptManage hg (fun hs => MapIs.runWriteField hs (fun ho => hf f v (by rw [ho])) f v) h e
    case frameClose bits => exact h.frameClose (fun f v hbits => hb f v (by rw [hbits])) e
  · exact hk.execOf c hg (fun hm => absurd hm hc) (fun hr => absurd hr hp) h e

end

/-! ### The statement -/

/-- Settles O60. -/
theorem keptUntilPinReset : Obligations.KeptUntilPinReset := by
  intro c s t e hp
  refine ⟨fun hw hf hb => MapIs.exec (m := s.classMap) rfl e hp hw hf hb, ?_⟩
  rcases commandGrants_of_exec e hp with hc | ⟨o, k, hfree, hm⟩
  · refine ⟨fun n => .inl (hc.queues n), fun j f g hf hg => .inr ?_⟩
    obtain ⟨x, hx, hgx⟩ := hc.entries j g hg
    rw [hf] at hx
    cases hx
    exact flightItems_eq_iff.1 hgx
  · obtain ⟨w, hw, hsent, htag⟩ := hm.down
    refine ⟨fun n => ?_, fun j f g hf hg => ?_⟩
    · by_cases hn : o = some n
      · obtain ⟨hpos, hmark, hgrow⟩ := hm.head n hn
        exact .inr ⟨hfree.imp_right And.left, hpos, hmark, ⟨w, hw, hsent⟩, hgrow⟩
      · exact .inl (hm.others n hn)
    · by_cases hj : j = k
      · subst hj
        rcases hfree with hd | ⟨-, hnone⟩
        · exact .inl ⟨hd, w, hw, hsent, htag⟩
        · rw [hf] at hnone
          cases hnone
      · obtain ⟨x, hx, hgx⟩ := hm.entries j hj g hg
        rw [hf] at hx
        cases hx
        exact .inr (flightItems_eq_iff.1 hgx)

end Sys2Proof.Machine
end

section
/-! Ticks and period boundaries (R33, R37, R40, R42, R46, R48, R49), and the samples of the line filters that change no level
(R58, R59, R63). -/

namespace Sys2Proof.Machine

/-! ### A change of one class that no arbiter reads -/

/-- A happening that changes a class at nothing that the downstream request arbiter reads is that change alone. -/
theorem noted_setCls {s : State} {f : State → State} {n : ClassId} {k : ClassRec} (h : f s = s.setCls n k)
    (hk : ArbiterReadsAlike k (s.cls n)) : noted f s = s.setCls n k := by
  rw [noted, h, noteTableFull_setCls rfl hk, follow_elsewhere (choiceOpen_setCls hk)]

/-! ### The delivery of a tick (R33, R40, R42, R46) -/

theorem tickDriven_iff (m : Mode) : tickDriven m = true ↔ m ≠ .counted := by cases m <;> simp [tickDriven]

theorem tickAdvances_iff (k : ClassRec) : tickAdvances k = true ↔ k.state = .running ∧ k.active.mode ≠ .counted := by
  rw [tickAdvances, Bool.and_eq_true, decide_eq_true_eq, tickDriven_iff]

theorem advanceCompletes_iff (k : ClassRec) : advanceCompletes k = true ↔ k.elapsed + 1 = k.active.length :=
  decide_eq_true_iff

section
variable {k : ClassRec} {later : Bool}

theorem tickDelivered_of_counted (h : k.active.mode = .counted) : tickDelivered later k = k := by
  simp [tickDelivered, tickDriven, h]

theorem tickDelivered_of_later (h : k.active.mode ≠ .counted) (hl : later = true) :
    tickDelivered later k = { k with tickOwed := true } := by
  simp [tickDelivered, (tickDriven_iff _).2 h, hl]

theorem tickDelivered_of_not_running (h : k.state ≠ .running) (hl : later = false) : tickDelivered later k = k := by
  simp [tickDelivered, tickAdvances, h, hl]

theorem tickDelivered_of_advance (h : k.active.mode ≠ .counted) (hs : k.state = .running) (hl : later = false)
    (he : k.elapsed + 1 ≠ k.active.length) : tickDelivered later k = { k with elapsed := k.elapsed + 1 } := by
  simp [tickDelivered, (tickDriven_iff _).2 h, (tickAdvances_iff k).2 ⟨hs, h⟩, hl, advanceCompletes, he]

theorem tickDelivered_of_boundary (h : k.active.mode ≠ .counted) (hs : k.state = .running) (hl : later = false)
    (he : k.elapsed + 1 = k.active.length) : tickDelivered later k = { k with tickOwed := true } := by
  simp [tickDelivered, (tickDriven_iff _).2 h, (tickAdvances_iff k).2 ⟨hs, h⟩, hl, advanceCompletes, he]

end

theorem tickOnce_cls (f g : Level) (later : List ClassId) (s : State) (n : ClassId) :
    (tickOnce f g later s).cls n = tickDelivered (later.contains n) (s.cls n) :=
  State.cls_mapCls s _ n

/-- What a tick changes besides the classes (R33, R34, R58). -/
theorem tickOnce_eq (f g : Level) (later : List ClassId) (s : State) : tickOnce f g later s = { s with
    timebase := s.timebase + 1
    intervalDiv := s.tickDiv
    frame := filterTick f s.frame
    gate := filterTick g s.gate
    classes := (tickOnce f g later s).classes } := by
  simp only [tickOnce, State.mapCls]

theorem exec_tick_of_taken (f g : Level) (later : List ClassId) {s : State} (h : s.resetN = .high) (ht : TickTaken s) :
    exec (.tick f g later) s = .next (tickOnce f g later s) := by
  rw [exec_tick_high f g later h, settleTick_of_taken s ht]

/-- Settles O6: what the tick delivers to a class, by its mode, by `later`, by its state and by its elapsed count. -/
theorem tickCounts : Obligations.TickCounts := by
  intro f g later s hr ht
  refine ⟨_, exec_tick_of_taken f g later hr ht, tickOnce_eq f g later s, fun n => ?_⟩
  rw [tickOnce_cls]
  have hnot (hn : n ∉ later) : later.contains n = false := by simpa using hn
  refine ⟨tickDelivered_of_counted, fun hm hn => tickDelivered_of_later hm (by simpa using hn),
    fun hn hs => tickDelivered_of_not_running hs (hnot hn), fun hm hn hs he => ?_, fun hm hn hs he => ?_⟩
  · exact tickDelivered_of_advance hm hs (hnot hn) he
  · exact tickDelivered_of_boundary hm hs (hnot hn) he

/-! ### PERIOD_BOUNDARY (R37, R48, R49, R77) -/

theorem exec_periodBoundary (n : ClassId) {s : State} (h : s.resetN = .high) :
    exec (.periodBoundary n) s = .next (noted (classTakesTick n) s) := happening_high s h

theorem exec_deadline (k : EntryIndex) {s : State} (h : s.resetN = .high) :
    exec (.deadline k) s = .next (noted (reachDeadline k) s) := happening_high s h

section
variable {gate : Level} {k : ClassRec}

theorem takeOwedTick_of_boundary (ho : k.tickOwed = true) (hs : k.state = .running) (hm : k.active.mode ≠ .counted)
    (he : k.elapsed + 1 = k.active.length) :
    takeOwedTick gate k = (boundary gate false { k with tickOwed := false }, true) := by
  simp [takeOwedTick, ho, takeTick, tickAdvances, hs, (tickDriven_iff _).2 hm, advance, advanceCompletes, he]

theorem takeOwedTick_of_advance (ho : k.tickOwed = true) (hs : k.state = .running) (hm : k.active.mode ≠ .counted)
    (he : k.elapsed + 1 ≠ k.active.length) :
    takeOwedTick gate k = ({ k with tickOwed := false, elapsed := k.elapsed + 1 }, false) := by
  simp [takeOwedTick, ho, takeTick, tickAdvances, hs, (tickDriven_iff _).2 hm, advance, advanceCompletes, he]

theorem takeOwedTick_of_passing (ho : k.tickOwed = true) (h : k.state ≠ .running ∨ k.active.mode = .counted) :
    takeOwedTick gate k = ({ k with tickOwed := false }, false) := by
  rcases h with h | h <;> simp [takeOwedTick, ho, takeTick, tickAdvances, tickDriven, h]

end

/-- A tick that is no boundary leaves the class alone. -/
theorem exec_periodBoundary_of_silent {n : ClassId} {s : State} {k : ClassRec} (hr : s.resetN = .high)
    (ht : takeOwedTick s.gate.level (s.cls n) = (k, false)) (hk : ArbiterReadsAlike k (s.cls n)) :
    exec (.periodBoundary n) s = .next (s.setCls n k) := by
  have hsilent : classTakesTick n s = s.setCls n k := atClass_of_no_notice ht
  rw [exec_periodBoundary n hr, noted_setCls hsilent hk]

/-- Settles O8: a boundary hands on its notice, and any other tick leaves the class alone. -/
theorem periodBoundary : Obligations.PeriodBoundary := by
  intro n s hr
  refine ⟨fun ho hs hm he => ?_, fun ho hs hm he => ?_, fun ho h => ?_, fun ho => ?_⟩
  · have ht := takeOwedTick_of_boundary (gate := s.gate.level) ho hs hm he
    have hnotified : classTakesTick n s =
        redecideAt n (s.setCls n (boundary s.gate.level false { s.cls n with tickOwed := false })) := atClass_of_notice ht
    have hf := noted_follows s (f := classTakesTick n) (hnotified ▸ resetN_redecideAt n hr)
    exact ⟨_, _, boundary_leaves _ _ _, exec_periodBoundary n hr, hnotified ▸ hf⟩
  · exact exec_periodBoundary_of_silent hr (takeOwedTick_of_advance ho hs hm he) ⟨rfl, rfl, rfl, rfl, rfl⟩
  · exact exec_periodBoundary_of_silent hr (takeOwedTick_of_passing ho h) ⟨rfl, rfl, rfl, rfl, rfl⟩
  · rw [exec_periodBoundary n hr, noted, classTakesTick_of_taken s ho, noteTableFull_self, follow_self]

/-! ### What a TICK settles first (R33) -/

/-- The runs of a list of happenings fold the happenings. -/
theorem foldl_of_runs {α : Type} {c : α → Instr} {g : State → α → State}
    (hg : ∀ a s, s.resetN = .high → exec (c a) s = .next (g s a) ∧ (g s a).resetN = .high) (l : List α) :
    ∀ {s t : State}, s.resetN = .high → Runs (l.map c) s t → t = l.foldl g s ∧ t.resetN = .high := by
  induction l with
  | nil =>
    rintro s t hs rfl
    exact ⟨rfl, hs⟩
  | cons a l ih =>
    rintro s t hs ⟨u, hu, ht⟩
    obtain ⟨he, hr⟩ := hg a s hs
    rw [he] at hu
    cases hu
    exact ih hr ht

theorem resetN_takeEdge {s : State} (line : Line) (taking : EdgeTaking) (h : s.resetN = .high) :
    (takeEdge line taking s).resetN = .high :=
  kept_resetHigh.keptTakeEdge keptByGrants_resetHigh line taking h

theorem settleCopies_of_exec {line : Line} {s t : State} (h : s.resetN = .high)
    (e : exec (.filterEdge line ⟨none, List.finRange 16⟩) s = .next t) : t = settleCopies line s ∧ t.resetN = .high := by
  rw [exec_filterEdge_high line _ h] at e
  cases e
  exact ⟨rfl, resetN_takeEdge line _ h⟩

theorem settleLine_of_owedSample {line : Line} {s t : State} (h : s.resetN = .high) (ht : OwedSampleTaken line s t) :
    t = settleLine line s ∧ t.resetN = .high := by
  obtain ⟨hyes, hno⟩ := ht
  cases ho : (s.filter line).owed with
  | true =>
    have e := hyes ho
    rw [exec_filterEdge_high line _ h] at e
    rw [settleLine, if_pos ho, ← Host.Outcome.next.inj e]
    exact ⟨rfl, resetN_takeEdge line _ h⟩
  | false =>
    have hs : settleLine line s = s := by simp [settleLine, ho]
    rw [hs, hno ho]
    exact ⟨rfl, h⟩

/-- Settles O7: the commands, in their order, leave what a TICK settles first, and of that nothing is left to settle. -/
theorem nextTickTakesOwedBoundary : Obligations.NextTickTakesOwedBoundary := by
  intro f g later s r u v w x hs hcopies hu hv hw hx ht
  obtain ⟨q, hq, p, hp, hr⟩ := hcopies
  obtain ⟨eq, hq⟩ := settleCopies_of_exec hs hq
  obtain ⟨er, hp⟩ := settleCopies_of_exec hq hp
  rw [← hr] at er hp
  obtain ⟨eu, hu⟩ := foldl_of_runs (g := fun t n => noted (classTakesTick n) t)
    (fun n t h => ⟨exec_periodBoundary n h, resetN_noted (kept_resetHigh.keptClassTakesTick n h)⟩) _ hp hu
  obtain ⟨ev, hv⟩ := settleLine_of_owedSample hu hv
  obtain ⟨ew, hw⟩ := settleLine_of_owedSample hv hw
  obtain ⟨ex, hx⟩ := foldl_of_runs (g := fun t k => noted (reachDeadline k) t)
    (fun k t h => ⟨exec_deadline k h, resetN_noted (kept_resetHigh.keptReachDeadline k h)⟩) _ hw hx
  have hsettled : settleTick s = x := by
    rw [settleTick, ← eq, ← er, settleClasses, ← eu, ← ev, ← ew, settleDeadlines, ← ex]
  rw [exec_tick_of_taken f g later hx ht, exec_tick_high f g later hs, hsettled]

/-! ### Samples that change no level (R58, R59, R63) -/

section
variable {raw : Level} {f : Filter}

theorem filterTick_of_off (hi : f.interval = .off) : filterTick raw f = { f with raw := raw } := by
  simp [filterTick, hi]

theorem filterTick_of_count (hi : f.interval ≠ .off) (hc : f.count + 1 ≠ intervalTicks f.interval) :
    filterTick raw f = { f with raw := raw, count := f.count + 1 } := by
  simp [filterTick, hi, countTick, hc]

theorem filterTick_of_level (hi : f.interval ≠ .off) (hc : f.count + 1 = intervalTicks f.interval) (hl : raw = f.level) :
    filterTick raw f = { f with raw := raw, count := 0, run := 0 } := by
  simp [filterTick, hi, countTick, hc, takeSample, hl]

theorem filterTick_of_run (hi : f.interval ≠ .off) (hc : f.count + 1 = intervalTicks f.interval) (hl : raw ≠ f.level)
    (hr : f.run + 1 ≠ f.agreement) : filterTick raw f = { f with raw := raw, count := 0, run := f.run + 1 } := by
  simp [filterTick, hi, countTick, hc, takeSample, hl, hr]

theorem filterTick_of_edge (hi : f.interval ≠ .off) (hc : f.count + 1 = intervalTicks f.interval) (hl : raw ≠ f.level)
    (hr : f.run + 1 = f.agreement) : filterTick raw f = { f with raw := raw, owed := true } := by
  simp [filterTick, hi, countTick, hc, takeSample, hl, hr]

/-- Without a level change, FILTER_EDGE with a sample is FILTER_EDGE without one, on the filter that the sample leaves. -/
theorem exec_filterEdge_of_no_edge {line : Line} {s : State} {g : Filter} (now : List ClassId) (hr : s.resetN = .high)
    (h : takeDueSample raw (s.filter line) = (g, none)) :
    exec (.filterEdge line ⟨some raw, now⟩) s = exec (.filterEdge line ⟨none, now⟩) (s.setFilter line g) := by
  have hg : (s.setFilter line g).resetN = .high := by rw [State.setFilter_resetN, hr]
  rw [exec_filterEdge_high line _ hr, exec_filterEdge_high line _ hg]
  simp [takeEdge, sampleInTurn, sampleLine, h]

theorem takeDueSample_of_off_level (hi : f.interval = .off) (hl : raw = f.level) :
    takeDueSample raw f = ({ f with raw := raw, owed := false, run := 0 }, none) := by
  simp [takeDueSample, hi, takeSample, hl]

theorem takeDueSample_of_level (hi : f.interval ≠ .off) (ho : f.owed = true)
    (hc : f.count + 1 = intervalTicks f.interval) (hl : raw = f.level) :
    takeDueSample raw f = ({ f with raw := raw, owed := false, count := 0, run := 0 }, none) := by
  simp [takeDueSample, hi, ho, countTick, hc, takeSample, hl]

theorem takeDueSample_of_run (hi : f.interval ≠ .off) (ho : f.owed = true)
    (hc : f.count + 1 = intervalTicks f.interval) (hl : raw ≠ f.level) (hr : f.run + 1 ≠ f.agreement) :
    takeDueSample raw f = ({ f with raw := raw, owed := false, count := 0, run := f.run + 1 }, none) := by
  simp [takeDueSample, hi, ho, countTick, hc, takeSample, hl, hr]

theorem takeDueSample_of_count (hi : f.interval ≠ .off) (ho : f.owed = true)
    (hc : f.count + 1 ≠ intervalTicks f.interval) :
    takeDueSample raw f = ({ f with raw := raw, owed := false, count := f.count + 1 }, none) := by
  simp [takeDueSample, hi, ho, countTick, hc]

theorem takeDueSample_of_none_due (hi : f.interval ≠ .off) (ho : f.owed = false) :
    takeDueSample raw f = ({ f with raw := raw }, none) := by
  simp [takeDueSample, hi, ho]

end

/-- Settles O9: the filter over a tick, and each sample that hands on no edge. -/
theorem sampleWithoutEdge : Obligations.SampleWithoutEdge := by
  refine ⟨fun raw f => ⟨filterTick_of_off, filterTick_of_count, filterTick_of_level, filterTick_of_run,
    filterTick_of_edge⟩, fun line s => ?_, fun line raw now s hr => ⟨fun hi hl => ?_, fun hi ho hc => ⟨fun hl => ?_,
    fun hl hrun => ?_⟩, fun hi ho hc => ?_, fun hi ho => ?_⟩⟩
  · rw [exec_filterEdge, execFilterEdge]
    split <;> rfl
  · exact exec_filterEdge_of_no_edge now hr (takeDueSample_of_off_level hi hl)
  · exact exec_filterEdge_of_no_edge now hr (takeDueSample_of_level hi ho hc hl)
  · exact exec_filterEdge_of_no_edge now hr (takeDueSample_of_run hi ho hc hl hrun)
  · exact exec_filterEdge_of_no_edge now hr (takeDueSample_of_count hi ho hc)
  · exact exec_filterEdge_of_no_edge now hr (takeDueSample_of_none_due hi ho)

end Sys2Proof.Machine
end

section
/-! The edges of the lines (R41 to R44, R46, R47, R59 to R61): each class takes its copy as a happening of its own. -/

namespace Sys2Proof.Machine

/-! ### The filters over the copies of an edge -/

/-- Both filters. -/
def filters (s : State) : Filter × Filter := (s.frame, s.gate)

theorem filter_of_filters {s t : State} (h : filters t = filters s) (line : Line) : t.filter line = s.filter line := by
  obtain ⟨hf, hg⟩ := Prod.mk.inj h
  cases line
  · exact hf
  · exact hg

section
variable (s t : State)

theorem filters_of_eraseDecision {s t : State} (h : eraseDecision t = eraseDecision s) : filters t = filters s :=
  (congrArg filters h :)

theorem filters_testDrain : filters (testDrain s) = filters s := by
  rcases testDrain_cases s with e | ⟨-, -, e⟩ <;> rw [e]
  rfl

theorem filters_noteTableFull : filters (noteTableFull s t) = filters t := by
  rw [noteTableFull_eq]
  rfl

theorem filters_redecideAt (n : ClassId) : filters (redecideAt n s) = filters s := by
  rcases redecideAt_cases s n with e | e <;> rw [e]
  exact filters_of_eraseDecision (decidePresented_leaves s)

theorem filters_takeThrough (k : EntryIndex) (a : Accepted) : filters (takeThrough k a s) = filters s := rfl

theorem filters_takeHead (c : ClassId) (k : EntryIndex) (a : Accepted) (rest : List Accepted) :
    filters (takeHead c k a rest s) = filters s := rfl

theorem filters_grantThrough : filters (grantThrough s) = filters s := by
  unfold grantThrough
  split
  · split
    · rw [filters_testDrain, filters_of_eraseDecision (atAllClasses_leaves _ _), filters_takeThrough]
    · rfl
  · rfl

theorem filters_grantQueues : filters (grantQueues s) = filters s := by
  unfold grantQueues
  split
  · split
    · split
      · rw [filters_testDrain, filters_of_eraseDecision (redecide_leaves _), deliverAll_eq,
          filters_of_eraseDecision (mapCls_leaves _ _), filters_takeHead]
      · rfl
    · rfl
  · rfl

theorem filters_follow : filters (follow s t) = filters t := by
  rcases follow_cases s t with e | ⟨-, -, e⟩ <;> rw [e]
  rw [filters_noteTableFull]
  rcases grantNext_cases t with e | e <;> rw [e]
  · exact filters_grantThrough t
  · exact filters_grantQueues t

theorem filters_classTakesCopy (line : Line) (n : ClassId) : filters (classTakesCopy line n s) = filters s := by
  unfold classTakesCopy atClass
  dsimp only
  split
  · exact filters_redecideAt _ n
  · rfl

theorem filters_takeCopies (line : Line) (l : List ClassId) : filters (takeCopies line l s) = filters s := by
  induction l generalizing s with
  | nil => rfl
  | cons n l ih =>
    rw [takeCopies_cons, ih, noted, filters_follow, filters_noteTableFull, filters_classTakesCopy]

end

/-! ### One copy -/

theorem raises_of_ops {s : State} {f : State → State} (h : OpsChange s (f s)) : RaisesTableFull s (noted f s) := by
  obtain ⟨hd, -⟩ := Prod.mk.inj (channel_of_opsChange h)
  exact follow_raises (down_eq_none_iff hd).2

theorem only_of_ops {s : State} {f : State → State} (h : OpsChange s (f s)) : SetsTableFullOnly s (noted f s) := by
  obtain ⟨hd, hf⟩ := Prod.mk.inj (channel_of_opsChange h)
  exact follow_only (fun hs => hf.trans hs) fun _ hn => .inr ((down_eq_none_iff hd).1 hn)

theorem frameEdge_of_no_notice {gate edge : Level} {k : ClassRec} (h : ¬ FrameEdgeNotice edge k) :
    frameEdge gate edge k = (k, false) := by
  have hn : (frameEdge gate edge k).2 = false := Bool.eq_false_iff.2 fun e => h ((frameEdge_notice gate edge k).1 e)
  unfold frameEdge at hn ⊢
  repeat' split at hn
  all_goals simp_all

theorem frameCopyTaken (n : ClassId) {s : State} (hr : s.resetN = .high) :
    FrameCopyTaken n s (noted (classTakesCopy .frame n) s) where
  owesNone ho := by
    have hcopy : classTakesCopy .frame n s = s := by simp [classTakesCopy, atClass, takeOwedCopy, ho]
    rw [noted, hcopy, noteTableFull_self, follow_self]
  takes ho := by
    have hcopy : takeOwedCopy .frame s.gate.level s.frame.level (s.cls n) =
        frameEdge s.gate.level s.frame.level { s.cls n with frameOwed := false } := by simp [takeOwedCopy, ho]
    refine ⟨_, frameEdge_leaves _ _ _, fun hn => ?_, fun hn => ?_⟩
    · have hnotice : (takeOwedCopy .frame s.gate.level s.frame.level (s.cls n)).2 = true := by
        rw [hcopy]
        exact (frameEdge_notice _ _ _).2 hn
      have htakes : classTakesCopy .frame n s = redecideAt n (s.setCls n
          (frameEdge s.gate.level s.frame.level { s.cls n with frameOwed := false }).1) :=
        atClass_of_notice (hcopy.trans (Prod.ext rfl (hcopy ▸ hnotice)))
      have hf := noted_follows s (f := classTakesCopy .frame n) (htakes ▸ resetN_redecideAt n hr)
      exact htakes ▸ hf
    · have hedge : frameEdge s.gate.level s.frame.level { s.cls n with frameOwed := false } =
          ({ s.cls n with frameOwed := false }, false) := frameEdge_of_no_notice hn
      rw [hedge]
      exact noted_setCls (atClass_of_no_notice (hcopy.trans hedge)) ⟨rfl, rfl, rfl, rfl, rfl⟩
  raises := raises_of_ops (opsChange_classTakesCopy s .frame n)
  only := only_of_ops (opsChange_classTakesCopy s .frame n)

section
variable {level : Level} {k : ClassRec}

theorem gateChange_of_suspends (h : Suspends level k) : gateChange level k = ({ k with state := .suspended }, true) := by
  obtain ⟨hm, hs, ha⟩ := h
  simp [gateChange, hm, hs, gateActive_iff, ha]

theorem gateChange_of_resumes (h : Resumes level k) : gateChange level k = ({ k with state := .running }, true) := by
  obtain ⟨hm, hs, ha⟩ := h
  simp [gateChange, hm, hs, gateActive_iff, ha]

theorem gateChange_of_stays (hs : ¬ Suspends level k) (hr : ¬ Resumes level k) : gateChange level k = (k, false) := by
  unfold gateChange
  split
  · next hm hk =>
    rw [if_pos]
    rw [gateActive_iff]
    by_contra ha
    exact hs ⟨hm, hk, ha⟩
  · next hm hk =>
    rw [if_neg]
    rw [gateActive_iff]
    exact fun ha => hr ⟨hm, hk, ha⟩
  · rfl

end

/-- A GATE change that reaches the class is a happening with a notice. -/
theorem gateCopy_follows {n : ClassId} {s : State} {k : ClassRec} (hr : s.resetN = .high)
    (ho : (s.cls n).gateOwed = true)
    (hc : gateChange s.gate.level { s.cls n with gateOwed := false } = (k, true)) :
    Follows s (redecideAt n (s.setCls n k)) (noted (classTakesCopy .gate n) s) := by
  have htakes : classTakesCopy .gate n s = redecideAt n (s.setCls n k) :=
    atClass_of_notice (f := takeOwedCopy .gate s.gate.level s.gate.level) (by simp [takeOwedCopy, ho, hc])
  have hf := noted_follows s (f := classTakesCopy .gate n) (htakes ▸ resetN_redecideAt n hr)
  exact htakes ▸ hf

theorem gateCopyTaken (n : ClassId) {s : State} (hr : s.resetN = .high) :
    GateCopyTaken n s (noted (classTakesCopy .gate n) s) where
  owesNone ho := by
    have hcopy : classTakesCopy .gate n s = s := by simp [classTakesCopy, atClass, takeOwedCopy, ho]
    rw [noted, hcopy, noteTableFull_self, follow_self]
  suspends ho hs := gateCopy_follows hr ho (gateChange_of_suspends hs)
  resumes ho hs := gateCopy_follows hr ho (gateChange_of_resumes hs)
  stays ho hs hr' := by
    have hc : gateChange s.gate.level { s.cls n with gateOwed := false } = ({ s.cls n with gateOwed := false }, false) :=
      gateChange_of_stays hs hr'
    exact noted_setCls (atClass_of_no_notice (f := takeOwedCopy .gate s.gate.level s.gate.level)
      (by simp [takeOwedCopy, ho, hc])) ⟨rfl, rfl, rfl, rfl, rfl⟩
  raises := raises_of_ops (opsChange_classTakesCopy s .gate n)
  only := only_of_ops (opsChange_classTakesCopy s .gate n)

/-! ### An edge -/

/-- The filter after a sample that is an edge (R59). -/
def edgeTaken (raw : Level) (f : Filter) : Filter :=
  { f with
    raw := raw
    level := raw
    owed := false
    run := if f.interval = .off then f.run else 0
    count := if f.interval = .off then f.count else 0 }

theorem takeDueSample_of_edge {raw : Level} {f : Filter} (h : EdgeDue raw f) :
    takeDueSample raw f = (edgeTaken raw f, some raw) := by
  obtain ⟨hl, hi | ⟨ho, hc, hrun⟩⟩ := h
  · simp [takeDueSample, hi, takeSample, hl, edgeTaken]
  · by_cases hi : f.interval = .off
    · simp [takeDueSample, hi, takeSample, hl, edgeTaken]
    · simp [takeDueSample, hi, ho, countTick, hc, takeSample, hl, hrun, edgeTaken]

theorem resetN_takeCopies {s : State} (line : Line) (l : List ClassId) (h : s.resetN = .high) :
    (takeCopies line l s).resetN = .high :=
  kept_resetHigh.keptTakeCopies keptByGrants_resetHigh line l h

/-- FILTER_EDGE on an edge: the copies of the one before, the new level with the copies owed, and those taken now. -/
theorem exec_filterEdge_of_edge {line : Line} {raw : Level} {s : State} (now : List ClassId) (hr : s.resetN = .high)
    (h : EdgeDue raw (s.filter line)) : exec (.filterEdge line ⟨some raw, now⟩) s = .next (takeCopies line now
      (oweCopies line ((settleCopies line s).setFilter line (edgeTaken raw (s.filter line))))) := by
  have hfilter : (settleCopies line s).filter line = s.filter line :=
    filter_of_filters (filters_takeCopies s line _) line
  rw [exec_filterEdge_high line _ hr]
  simp [takeEdge, sampleInTurn, sampleLine, takeDueSample_of_edge h, hfilter]

theorem oweCopies_cls (line : Line) (s : State) (n : ClassId) : (oweCopies line s).cls n = oweCopy line (s.cls n) :=
  State.cls_mapCls s _ n

section
variable (r : State) (f : Filter)

theorem oweCopies_frame_eq : oweCopies .frame (r.setFilter .frame f) =
    { r with frame := f, classes := (oweCopies .frame (r.setFilter .frame f)).classes } := by
  simp only [oweCopies, State.mapCls, State.setFilter]

theorem oweCopies_gate_eq : oweCopies .gate (r.setFilter .gate f) =
    { r with gate := f, classes := (oweCopies .gate (r.setFilter .gate f)).classes } := by
  simp only [oweCopies, State.mapCls, State.setFilter]

/-- The receptive classes owe their copy of a FRAME edge (R60). -/
theorem oweCopies_frame_cls (n : ClassId) :
    (ReceivesFrame (r.cls n) →
      (oweCopies .frame (r.setFilter .frame f)).cls n = { r.cls n with frameOwed := true }) ∧
      (¬ ReceivesFrame (r.cls n) → (oweCopies .frame (r.setFilter .frame f)).cls n = r.cls n) := by
  have hcls : (r.setFilter .frame f).cls n = r.cls n := rfl
  rw [oweCopies_cls, hcls, ← receptive_frame_iff]
  exact ⟨fun h => by simp [oweCopy, h], fun h => by simp [oweCopy, h]⟩

/-- The receptive classes owe their copy of a GATE change (R61). -/
theorem oweCopies_gate_cls (n : ClassId) :
    (ReceivesGate (r.cls n) →
      (oweCopies .gate (r.setFilter .gate f)).cls n = { r.cls n with gateOwed := true }) ∧
      (¬ ReceivesGate (r.cls n) → (oweCopies .gate (r.setFilter .gate f)).cls n = r.cls n) := by
  have hcls : (r.setFilter .gate f).cls n = r.cls n := rfl
  rw [oweCopies_cls, hcls, ← receptive_gate_iff]
  exact ⟨fun h => by simp [oweCopy, h], fun h => by simp [oweCopy, h]⟩

end

/-- Settles O10. -/
theorem frameEdgeTaken : Obligations.FrameEdge := by
  intro now s hr
  have hcopies := takeCopies_taken .frame fun n u hu => ⟨resetN_noted (kept_resetHigh.keptAtClass
    (kept_resetHigh.takeCopy u n .frame _ _ hu)), frameCopyTaken n hu⟩
  refine ⟨⟨_, exec_filterEdge_high .frame _ hr, hcopies now s hr⟩, fun raw hraw => ?_⟩
  obtain ⟨r, hset⟩ : ∃ r, r = settleCopies .frame s := ⟨_, rfl⟩
  have hexec := exec_filterEdge_of_edge (line := .frame) now hr hraw
  have htaken : CopiesTaken FrameCopyTaken (List.finRange 16) s r := hset ▸ hcopies _ s hr
  have hhigh : r.resetN = .high := hset ▸ resetN_takeCopies .frame _ hr
  rw [← hset] at hexec
  exact ⟨r, _, _, hexec, htaken, oweCopies_frame_eq r _, oweCopies_frame_cls r _, hcopies now _ hhigh⟩

/-- Settles O11. -/
theorem gateEdge : Obligations.GateEdge := by
  intro now s hr
  have hcopies := takeCopies_taken .gate fun n u hu => ⟨resetN_noted (kept_resetHigh.keptAtClass
    (kept_resetHigh.takeCopy u n .gate _ _ hu)), gateCopyTaken n hu⟩
  refine ⟨⟨_, exec_filterEdge_high .gate _ hr, hcopies now s hr⟩, fun raw hraw => ?_⟩
  obtain ⟨r, hset⟩ : ∃ r, r = settleCopies .gate s := ⟨_, rfl⟩
  have hexec := exec_filterEdge_of_edge (line := .gate) now hr hraw
  have htaken : CopiesTaken GateCopyTaken (List.finRange 16) s r := hset ▸ hcopies _ s hr
  have hhigh : r.resetN = .high := hset ▸ resetN_takeCopies .gate _ hr
  rw [← hset] at hexec
  exact ⟨r, _, _, hexec, htaken, oweCopies_gate_eq r _, oweCopies_gate_cls r _, hcopies now _ hhigh⟩

end Sys2Proof.Machine
end

section
/-! The admission decision (R67 to R78): where R70 sends a request, what each way leaves, and the decision as a happening. -/

namespace Sys2Proof.Machine

/-! ### The decision as a happening -/

theorem exec_admissionDecision (offered : Option Request) {s : State} (h : s.resetN = .high) :
    exec (.admissionDecision offered) s = .next (noted (fun s => decideUndecided (offerHeader offered s)) s) :=
  happening_high s h

theorem offerHeader_of_presents {s : State} {offered : Option Request} {r : Request} (h : Presents s offered r) :
    offerHeader offered s = { s with up := .presented r none } := by
  rcases h with ⟨hu, rfl⟩ | hu
  · simp [offerHeader, hu]
  · have he : s = { s with up := .presented r none } := by rw [← hu]
    rw [← he]
    simp [offerHeader, hu]

/-- A decision does not read whether the request was stalled: whatever it does, it writes the channel. -/
theorem decideClassed_up (c : ClassId) (r : Request) (s : State) (u : UpChannel) :
    decideClassed c r { s with up := u } = decideClassed c r s := rfl

theorem decideRequest_up (r : Request) (s : State) (u : UpChannel) :
    decideRequest r { s with up := u } = decideRequest r s := by
  have hc : classify { s with up := u } r = classify s r := rfl
  unfold decideRequest
  rw [hc]
  split
  · rfl
  · exact decideClassed_up _ r s u

section
variable {offered : Option Request} {r : Request} {s : State}

/-- The decision of a request that is presented and can be accepted is that of R70. -/
theorem decideUndecided_of_accepting (hp : Presents s offered r) (ha : Accepting s) :
    decideUndecided (offerHeader offered s) = decideRequest r s := by
  rw [offerHeader_of_presents hp, ← decideRequest_up r s (.presented r none)]
  exact decidePresented_of_accepting (s := { s with up := .presented r none }) rfl ha

/-- The decision with what follows it in the happening. -/
theorem admission_follows {u : State} (hr : s.resetN = .high) (hp : Presents s offered r) (ha : Accepting s)
    (hu : decideRequest r s = u) (hhigh : u.resetN = .high) :
    ∃ t, exec (.admissionDecision offered) s = .next t ∧ Follows s u t := by
  have he : decideUndecided (offerHeader offered s) = u := (decideUndecided_of_accepting hp ha).trans hu
  have hf := noted_follows s (f := fun s => decideUndecided (offerHeader offered s)) (by rw [he]; exact hhigh)
  rw [he] at hf
  exact ⟨_, exec_admissionDecision offered hr, hf⟩

theorem decideRequest_of_bypass (h : classify s r = .bypass) :
    decideRequest r s = enterThrough (acceptedRequest s r none false r.urgency) s := by
  rw [decideRequest, h]

theorem decideRequest_of_class {c : ClassId} (h : classify s r = .cls c) : decideRequest r s = decideClassed c r s := by
  rw [decideRequest, h]

end

/-! ### The steps of R70 -/

theorem regulated_iff (st : ClassState) : regulated st = true ↔ st = .armed ∨ st = .running := by
  cases st <;> simp [regulated]

theorem regulated_eq_false_iff (k : ClassRec) : regulated k.state = false ↔ Unregulated k := by
  unfold Unregulated
  cases k.state <;> simp [regulated]

section
variable {c : ClassId} {r : Request} {s : State}

theorem decideClassed_of_unregulated (hq : (s.cls c).queue = []) (hu : Unregulated (s.cls c))
    (ho : (s.cls c).outstanding < 64) : decideClassed c r s = passUnregulated c r s := by
  simp [decideClassed, hq, (regulated_eq_false_iff _).2 hu, Config.outstandingCeiling, ho]

theorem decideClassed_of_budget (h : ReachesBudget (s.cls c)) :
    decideClassed c r s = if chargeOf r ≤ (s.cls c).remaining then passCharged c r s else overBudgetStep c r s := by
  obtain ⟨hq, hs, ho⟩ := h
  simp [decideClassed, hq, (regulated_iff _).2 hs, Nat.not_le.2 ho]

theorem decideClassed_of_sent (h : SentToQueue (s.cls c)) : decideClassed c r s = attemptJoin c r s := by
  rcases h with hq | ⟨hu, ho⟩ | ⟨hs, ho⟩
  · simp [decideClassed, hq]
  · simp [decideClassed, (regulated_eq_false_iff _).2 hu, Config.outstandingCeiling, Nat.not_lt.2 ho]
  · simp [decideClassed, (regulated_iff _).2 hs, ho]

end

/-! ### The overrun mark (R71) -/

theorem overrunSet_setOverrun (k : ClassRec) : OverrunSet k (setOverrun k) := by
  refine ⟨fun h => ?_, fun h => ?_⟩ <;> simp [setOverrun, h, raiseAt]

theorem OverrunSet.eq_setOverrun {k l : ClassRec} (h : OverrunSet k l) : l = setOverrun k := by
  have hs := overrunSet_setOverrun k
  cases ho : k.overrun with
  | true => rw [h.1 ho, hs.1 ho]
  | false => rw [h.2 ho, hs.2 ho]

theorem setOverrun_active (k : ClassRec) : (setOverrun k).active = k.active := by
  unfold setOverrun
  split <;> rfl

/-- The record of class `c` written before its slot or channel is the record that is written after it. -/
theorem setCls_in_setCls (s : State) (c : ClassId) (k l : ClassRec) (through : Option Accepted) (refused : Option Refused)
    (up : UpChannel) :
    ({ s.setCls c k with through := through, refused := refused, up := up } : State).setCls c l =
      ({ s with through := through, refused := refused, up := up } : State).setCls c l := by
  simp [State.setCls]

/-! ### Requests that pass (R4, R70) -/

/-- Settles O12. -/
theorem unchargedRequestPasses : Obligations.UnchargedRequestPasses := by
  intro offered r s hr hp ha
  refine ⟨fun hc => ?_, fun c hc hq hu ho => ?_⟩
  · exact admission_follows hr hp ha (decideRequest_of_bypass hc) hr
  · exact admission_follows hr hp ha ((decideRequest_of_class hc).trans (decideClassed_of_unregulated hq hu ho)) hr

/-- Settles O13. -/
theorem fittingRequestCharged : Obligations.FittingRequestCharged := by
  refine ⟨fun r => ?_, fun offered r c s hr hp ha hc hb hfits => ?_⟩
  · have hlen := r.len.isLt
    unfold chargeOf beats
    omega
  · refine admission_follows hr hp ha ((decideRequest_of_class hc).trans ?_) hr
    rw [decideClassed_of_budget hb, if_pos hfits]
    rfl

/-! ### The refused slot (R73, R120) -/

/-- An accepted request that the refused slot takes is chosen by a free response arbiter at once. -/
theorem enterRefused_eq (c : ClassId) (r : Request) (s : State) :
    enterRefused c r s = arbitrate (fillRefused c r s) :=
  (arbitrate_of_generated _ (.inl (by nofun))).symm

theorem arbitrates_enterRefused (c : ClassId) (r : Request) (s : State) :
    Arbitrates (fillRefused c r s) (enterRefused c r s) := by
  rw [enterRefused_eq]
  exact arbitrate_arbitrates _

theorem refusedHolds_refusedRequest (s : State) (r : Request) : RefusedHolds s r (refusedRequest s r) := rfl

/-- What the slot keeps does not depend on the class's record. -/
theorem fillRefused_setCls (c : ClassId) (r : Request) (s : State) (k : ClassRec) :
    fillRefused c r (s.setCls c k) =
      ({ s with refused := some (refusedRequest s r), up := afterHeader r .refusedSlot } : State).setCls c
        { k with live := { k.live with requestsRefused := bump k.live.requestsRefused 1 } } := by
  have hcls : ({ s.setCls c k with
      refused := some (refusedRequest s r), up := afterHeader r .refusedSlot } : State).cls c = k :=
    State.cls_setCls_same s c k
  have hfill : fillRefused c r (s.setCls c k) = ({ s.setCls c k with
      refused := some (refusedRequest s r), up := afterHeader r .refusedSlot } : State).updCls c fun k =>
        { k with live := { k.live with requestsRefused := bump k.live.requestsRefused 1 } } := rfl
  rw [hfill, State.updCls_eq, hcls]
  exact setCls_in_setCls s c k _ s.through _ _

theorem resetN_enterRefused {c : ClassId} {r : Request} {s : State} (h : s.resetN = .high) :
    (enterRefused c r s).resetN = .high := by
  obtain ⟨hr, -⟩ := fields_of_eraseDecision (chooseGenerated_leaves (fillRefused c r s))
  exact hr.trans h

/-! ### Over budget (R71 to R73) -/

section
variable {c : ClassId} {r : Request} {s : State}

theorem overBudgetStep_of_mark (h : (s.cls c).active.overBudget = .mark) :
    overBudgetStep c r s = passMarked c r (s.setCls c (setOverrun (s.cls c))) := by
  simp only [overBudgetStep, h, State.updCls_eq]

theorem overBudgetStep_of_reject (h : (s.cls c).active.overBudget = .reject) :
    overBudgetStep c r s = enterRefused c r (s.setCls c (setOverrun (s.cls c))) := by
  simp only [overBudgetStep, h, State.updCls_eq]

theorem overBudgetStep_of_hold (h : (s.cls c).active.overBudget = .hold) :
    overBudgetStep c r s = attemptJoin c r (s.setCls c (setOverrun (s.cls c))) := by
  simp only [overBudgetStep, h, State.updCls_eq]

theorem passMarked_setCls {k : ClassRec} (hk : k.active = (s.cls c).active) : passMarked c r (s.setCls c k) =
    ({ s with
      through := some ⟨r, some c, chargeOf r, s.timebase, true,
        BitVec.ofNat 2 (s.cls c).active.markedUrgency, []⟩
      up := afterHeader r .through } : State).setCls c { k with
        outstanding := k.outstanding + 1
        live := { k.live with unitsMarked := bump k.live.unitsMarked (chargeOf r) } } := by
  have hcls (a : Accepted) : (enterThrough a (s.setCls c k)).cls c = k := State.cls_setCls_same s c k
  unfold passMarked
  rw [State.updCls_eq, hcls, State.cls_setCls_same, hk]
  exact setCls_in_setCls s c k _ _ s.refused _

end

/-- Settles O14. -/
theorem overBudgetMarkedOrRejected : Obligations.OverBudgetMarkedOrRejected := by
  intro offered r c s hr hp ha hc hb hover
  have hstep : decideRequest r s = overBudgetStep c r s := by
    rw [decideRequest_of_class hc, decideClassed_of_budget hb, if_neg (Nat.not_le.2 hover)]
  have hset := overrunSet_setOverrun (s.cls c)
  refine ⟨fun hm => ?_, fun hm => ?_⟩
  · have hpass := passMarked_setCls (r := r) (setOverrun_active (s.cls c))
    obtain ⟨t, ht, hf⟩ := admission_follows hr hp ha ((hstep.trans (overBudgetStep_of_mark hm)).trans hpass) hr
    exact ⟨_, t, hset, ht, hf⟩
  · obtain ⟨t, ht, hf⟩ := admission_follows hr hp ha (hstep.trans (overBudgetStep_of_reject hm)) (resetN_enterRefused hr)
    have harb := arbitrates_enterRefused c r (s.setCls c (setOverrun (s.cls c)))
    rw [fillRefused_setCls] at harb
    exact ⟨_, _, _, t, hset, refusedHolds_refusedRequest s r, ht, harb, hf⟩

/-! ### The hold queue (R74 to R76) -/

theorem canJoin_iff (s : State) (c : ClassId) :
    canJoin s c = true ↔ heldTotal s < 48 ∧ (s.cls c).queue.length < (s.cls c).active.holdLimit := by
  simp only [canJoin, holdRoom, Bool.and_eq_true, decide_eq_true_eq]
  exact Iff.rfl

section
variable {c : ClassId} {r : Request} {s : State}

theorem attemptJoin_of_room (h : canJoin s c = true) : attemptJoin c r s = joinQueue c r s := if_pos h

theorem attemptJoin_of_refuse (h : ¬ canJoin s c = true) (ho : (s.cls c).active.overflow = .refuse) :
    attemptJoin c r s = enterRefused c r (s.setCls c (raiseAt .holdFull (s.cls c))) := by
  simp only [attemptJoin, h, ho, State.updCls_eq, Bool.false_eq_true, if_false]

theorem attemptJoin_of_stall (h : ¬ canJoin s c = true) (ho : (s.cls c).active.overflow = .stall) :
    attemptJoin c r s = { s.setCls c (raiseAt .holdFull (s.cls c)) with up := .presented r (some c) } := by
  simp only [attemptJoin, h, ho, State.updCls_eq, Bool.false_eq_true, if_false]

end

/-- A request bound for the hold queue attempts to join with the class's record `k`, whose queue and contract are those
of before. -/
theorem decideRequest_of_bound {c : ClassId} {r : Request} {k : ClassRec} {s : State} (hc : classify s r = .cls c)
    (h : (SentToQueue (s.cls c) ∧ k = s.cls c) ∨ (ReachesBudget (s.cls c) ∧ (s.cls c).remaining < chargeOf r ∧
      (s.cls c).active.overBudget = .hold ∧ OverrunSet (s.cls c) k)) :
    decideRequest r s = attemptJoin c r (s.setCls c k) ∧ k.queue = (s.cls c).queue ∧ k.active = (s.cls c).active := by
  rw [decideRequest_of_class hc]
  rcases h with ⟨hs, rfl⟩ | ⟨hb, hover, hh, hk⟩
  · rw [State.setCls_self]
    exact ⟨decideClassed_of_sent hs, rfl, rfl⟩
  · rw [hk.eq_setOverrun, decideClassed_of_budget hb, if_neg (Nat.not_le.2 hover)]
    exact ⟨overBudgetStep_of_hold hh, (setOverrun_keepsTraffic _).queue, setOverrun_active _⟩

theorem canJoin_setCls {c : ClassId} {k : ClassRec} {s : State} (hq : k.queue = (s.cls c).queue)
    (ha : k.active = (s.cls c).active) : canJoin (s.setCls c k) c = canJoin s c := by
  have htotal : heldTotal (s.setCls c k) = heldTotal s :=
    heldTotal_congr fun d => by rw [queue_setCls rfl hq d]
  simp [canJoin, holdRoom, htotal, hq, ha]

theorem joinQueue_setCls (c : ClassId) (r : Request) (s : State) (k : ClassRec) :
    joinQueue c r (s.setCls c k) = ({ s with up := afterHeader r (.held c) } : State).setCls c { k with
      queue := k.queue ++ [⟨r, some c, chargeOf r, s.timebase, false, r.urgency, []⟩]
      live := { k.live with requestsHeld := bump k.live.requestsHeld 1 } } := by
  have hcls : ({ s.setCls c k with up := afterHeader r (.held c) } : State).cls c = k := State.cls_setCls_same s c k
  unfold joinQueue
  rw [State.updCls_eq, hcls]
  exact setCls_in_setCls s c k _ s.through s.refused _

/-- Settles O15. -/
theorem joinOrOverflow : Obligations.JoinOrOverflow := by
  intro offered r c k s hr hp ha hc hbound
  obtain ⟨hstep, hq, hactive⟩ := decideRequest_of_bound hc hbound
  have hjoin := canJoin_setCls hq hactive
  have hoverflow : ((s.setCls c k).cls c).active.overflow = (s.cls c).active.overflow := by
    rw [State.cls_setCls_same, hactive]
  rw [← canJoin_iff, ← hjoin]
  refine ⟨fun hroom => ?_, fun hroom => ⟨fun ho => ?_, fun ho => ?_⟩⟩
  · exact admission_follows hr hp ha ((hstep.trans (attemptJoin_of_room hroom)).trans (joinQueue_setCls c r s k)) hr
  · have hrefuse := attemptJoin_of_refuse (r := r) hroom (hoverflow.trans ho)
    rw [State.cls_setCls_same, State.setCls_setCls] at hrefuse
    obtain ⟨t, ht, hf⟩ := admission_follows hr hp ha (hstep.trans hrefuse) (resetN_enterRefused hr)
    have harb := arbitrates_enterRefused c r (s.setCls c (raiseAt .holdFull k))
    rw [fillRefused_setCls] at harb
    exact ⟨_, _, t, refusedHolds_refusedRequest s r, ht, harb, hf⟩
  · have hstall := attemptJoin_of_stall (r := r) hroom (hoverflow.trans ho)
    rw [State.cls_setCls_same, State.setCls_setCls] at hstall
    exact admission_follows hr hp ha (hstep.trans hstall) hr

/-! ### Requests that wait, and stalled ones (R67, R76, R77) -/

/-- Without a decision the happening leaves the header that it may have taken. -/
theorem exec_admissionDecision_of_undecided {offered : Option Request} {s : State} {u : UpChannel} (hr : s.resetN = .high)
    (h : decideUndecided (offerHeader offered s) = { s with up := u }) :
    exec (.admissionDecision offered) s = .next { s with up := u } := by
  rw [exec_admissionDecision offered hr]
  exact congrArg _ (noted_elsewhere (f := fun s => decideUndecided (offerHeader offered s)) h rfl rfl rfl rfl rfl rfl)

theorem exec_admissionDecision_of_idle {offered : Option Request} {s : State} (hr : s.resetN = .high)
    (h : decideUndecided (offerHeader offered s) = s) : exec (.admissionDecision offered) s = .next s :=
  exec_admissionDecision_of_undecided (u := s.up) hr h

/-- Settles O16. -/
theorem undecidedRequestWaits : Obligations.UndecidedRequestWaits := by
  intro offered s hr
  refine ⟨fun r hp hn => ?_, fun hu ho => ?_, fun ⟨p, n, hu⟩ => ?_, fun ⟨r, c, hu⟩ => ?_⟩
  · refine exec_admissionDecision_of_undecided hr ?_
    rw [offerHeader_of_presents hp]
    exact decidePresented_of_not (s := { s with up := .presented r none }) (.inr hn)
  · refine exec_admissionDecision_of_idle hr ?_
    simp [offerHeader, hu, ho, decideUndecided, stalledAt, decidePresented]
  · refine exec_admissionDecision_of_idle hr ?_
    simp [offerHeader, hu, decideUndecided, stalledAt, decidePresented]
  · refine exec_admissionDecision_of_idle hr ?_
    simp [offerHeader, hu, decideUndecided, stalledAt]

/-- What follows a change does not read the request that the state before presents. -/
theorem follow_up (s t : State) (u : UpChannel) : follow { s with up := u } t = follow s t := by
  have ho : choiceOpen { s with up := u } = choiceOpen s := rfl
  rw [follow, follow, ho]

theorem noteTableFull_up (s t : State) (u : UpChannel) : noteTableFull { s with up := u } t = noteTableFull s t := by
  have hb : bringsTableFull { s with up := u } t = bringsTableFull s t := rfl
  rw [noteTableFull, noteTableFull, hb]

/-- Settles O17: the decision does not read whether the request was stalled. -/
theorem stalledRequestDecidedAfresh : Obligations.StalledRequestDecidedAfresh := by
  intro r c s t hr hu
  have hstalled : stalledAt s = some c := by rw [stalledAt, hu]
  have hother (d : ClassId) (hd : d ≠ c) : redecideAt d s = s :=
    redecideAt_of_ne s fun e => hd (Option.some.inj (e.symm.trans hstalled))
  have hat : redecideAt c s = decidePresented s := if_pos hstalled
  have hall : redecide s = decidePresented s := by simp [redecide, hstalled]
  refine ⟨fun ha e => ⟨?_, hall.trans hat.symm, hother⟩, fun hn => ?_⟩
  · have hfresh : decideUndecided (offerHeader none { s with up := .presented r none }) = decideRequest r s :=
      (decideUndecided_of_accepting (s := { s with up := .presented r none }) (.inr rfl) ha).trans (decideRequest_up r s _)
    have hdecided : redecideAt c s = decideRequest r s := hat.trans (decidePresented_of_accepting hu ha)
    have hhigh : (redecideAt c s).resetN = .high := resetN_redecideAt c hr
    rw [exec_admissionDecision none (s := { s with up := .presented r none }) hr, noted, hfresh, follow_up,
      noteTableFull_up, ← hdecided] at e
    rw [← Host.Outcome.next.inj e]
    refine ⟨_, noteTableFull_upTo s _, follow_taken ?_⟩
    rw [noteTableFull_eq]
    exact hhigh
  · have hnone : decidePresented s = s := decidePresented_of_not (.inr hn)
    refine ⟨hall.trans hnone, fun d => ?_⟩
    by_cases hd : d = c
    · subst hd
      exact hat.trans hnone
    · exact hother d hd

end Sys2Proof.Machine
end

section
/-! The downstream request arbiter (R45, R78, R94 to R97, R107, R108): the order of its choice, and what each grant leaves. -/

namespace Sys2Proof.Machine

/-! ### The first of a range -/

theorem find?_finRange_eq_some {n : Nat} {p : Fin n → Bool} {i : Fin n} :
    (List.finRange n).find? p = some i ↔ p i = true ∧ ∀ j, p j = true → i ≤ j := by
  rw [List.find?_eq_some_iff_getElem]
  refine and_congr_right fun hi => ⟨?_, fun h => ⟨i.val, by simp, by simp, fun j hj => ?_⟩⟩
  · rintro ⟨m, hm, hget, hbefore⟩ j hj
    rw [List.getElem_finRange] at hget
    subst hget
    by_contra hlt
    have hjm : j.val < m := by simpa [Fin.lt_def] using hlt
    have hnot := hbefore j.val hjm
    rw [List.getElem_finRange] at hnot
    simp [hj] at hnot
  · rw [List.getElem_finRange]
    by_contra hp
    have hle := h ⟨j, by omega⟩ (by simpa using hp)
    exact absurd hj (Nat.not_lt.2 hle)

/-- The head that round-robin takes is the eligible one whose class comes first after the position (R96). -/
theorem nextHead_eq_some_iff (s : State) (c : ClassId) : nextHead s = some c ↔ eligible s c = true ∧
    ∀ d, eligible s d = true → (c - (s.rrPos + 1)).val ≤ (d - (s.rrPos + 1)).val := by
  have hback (d : ClassId) : s.rrPos + 1 + (d - (s.rrPos + 1)) = d := add_sub_cancel _ _
  rw [nextHead, rrOrder, List.find?_map, Option.map_eq_some_iff]
  constructor
  · rintro ⟨i, hi, rfl⟩
    obtain ⟨he, hfirst⟩ := find?_finRange_eq_some.1 hi
    refine ⟨he, fun d hd => ?_⟩
    have hle := hfirst (d - (s.rrPos + 1)) (by simpa [hback] using hd)
    rwa [add_sub_cancel_left]
  · rintro ⟨he, hfirst⟩
    refine ⟨c - (s.rrPos + 1), find?_finRange_eq_some.2 ⟨by simpa [hback] using he, fun i hi => ?_⟩, hback c⟩
    have hle := hfirst _ hi
    rwa [add_sub_cancel_left] at hle

theorem nextHead_eq_none_iff (s : State) : nextHead s = none ↔ ∀ c, eligible s c = false := by
  have h := nextHead_ne_none s
  rw [← not_iff_not]
  simpa using h

theorem lowestFree_eq_some_iff {s : State} {k : EntryIndex} : lowestFree s = some k ↔ LowestFree s k := by
  rw [lowestFree, find?_finRange_eq_some, Option.isNone_iff_eq_none]
  refine and_congr_right fun _ => ⟨fun h j hj hn => ?_, fun h j hj => ?_⟩
  · exact absurd hj (not_lt.2 (h j (by rw [hn]; rfl)))
  · exact not_lt.1 fun hlt => h j hlt (by simpa using hj)

/-! ### What a forward notifies, and what it fills -/

theorem forwardNotice_of_not {gate : Level} {c : Option ClassId} {k : ClassRec} (h : ¬ CountsForward c k) :
    forwardNotice gate c k = (k, false) := by
  cases c with
  | none => rfl
  | some n => exact if_neg fun ⟨hs, hm, he⟩ => h ⟨hs, hm, congrArg some he.symm⟩

theorem forwardNotice_of_counts {gate : Level} {c : Option ClassId} {k : ClassRec} (h : CountsForward c k) :
    forwardNotice gate c k = advance gate k := by
  obtain ⟨hs, hm, rfl⟩ := h
  exact if_pos ⟨hs, hm, rfl⟩

theorem forwardNotice_leaves (gate : Level) (c : Option ClassId) (k : ClassRec) :
    ForwardLeaves gate c k (forwardNotice gate c k).1 where
  other h := by rw [forwardNotice_of_not h]
  counts h he := by simp [forwardNotice_of_counts h, advance, advanceCompletes, he]
  ends h he := by
    rw [forwardNotice_of_counts h, advance, if_pos ((advanceCompletes_iff k).2 he)]
    exact boundary_leaves gate false k

theorem deadlineSet_deadlineOf (s : State) (c : Option ClassId) : DeadlineSet s c (deadlineOf s c) := by
  refine ⟨fun h => by rw [h]; rfl, fun n h => ?_⟩
  rw [h]
  exact ⟨fun hz => if_pos hz, fun hz => if_neg hz⟩

theorem allocated_flightOf (s : State) (a : Accepted) : Allocated s a a.marked (flightOf s a) :=
  ⟨rfl, deadlineSet_deadlineOf s a.cls⟩

theorem redirectData_of_taking (left : Place) (n : Nat) : redirectData left (.taking left n) = .taking .forwarded n :=
  if_pos rfl

theorem redirectData_of_not {left : Place} {up : UpChannel} (h : ∀ n, up ≠ .taking left n) : redirectData left up = up := by
  unfold redirectData
  split
  · next place n => exact if_neg fun hp => h n (by rw [hp])
  · rfl

/-- An entry that is PENDING leaves the drain open (R157). -/
theorem testDrain_of_pending {s : State} {k : EntryIndex} {f : Flight} (he : s.entry k = some f) (hp : f.phase = .pending) :
    testDrain s = s := by
  refine testDrain_of_not fun ⟨_, hd⟩ => ?_
  obtain ⟨-, -, -, hentries⟩ := (drained_iff s).1 hd
  rw [(hentries k f he).1] at hp
  cases hp

/-- The row of a grant that has taken the channel: only a TABLE-FULL may follow. -/
theorem happening_of_grant {s : State} {f : State → State} (hr : s.resetN = .high) (h : (f s).down ≠ none) :
    happening s f = .next (noteTableFull s (f s)) := by
  rw [happening_high s hr, noted]
  refine congrArg _ (follow_idle (.inr fun ho => h ?_))
  rw [noteTableFull_eq] at ho
  exact ho.1

/-! ### The grant of the through slot (R78, R95) -/

section
variable {s : State} {a : Accepted} {k : EntryIndex}

theorem throughGranted_iff (s : State) : throughGranted s = true ↔
    s.down = none ∧ (s.altMark = .throughSlot ∨ ∀ c, eligible s c = false) := by
  rw [← nextHead_eq_none_iff]
  simp [throughGranted, or_comm]

/-- The state that the grant leaves before the notices. -/
def throughNotified (s : State) (k : EntryIndex) (a : Accepted) : State :=
  deliverAll (fun _ => forwardNotice s.gate.level a.cls) (takeThrough k a s)

theorem throughNotified_eq (s : State) (k : EntryIndex) (a : Accepted) : throughNotified s k a =
    { s.setEntry k (some (flightOf s a)) with
      through := none
      altMark := .holdQueues
      down := some (forwardOf k a)
      up := redirectData .through s.up
      classes := (throughNotified s k a).classes } := by
  simp only [throughNotified, deliverAll_eq, State.mapCls, takeThrough, forwardOut, State.setEntry]
  rfl

theorem throughNotified_entry (s : State) (k : EntryIndex) (a : Accepted) :
    (throughNotified s k a).entry k = some (flightOf s a) := by
  have he : (throughNotified s k a).entries = (s.setEntry k (some (flightOf s a))).entries := by rw [throughNotified_eq]
  rw [State.entry, he]
  exact State.entry_setEntry_same s k _

theorem throughNotified_cls (s : State) (k : EntryIndex) (a : Accepted) (c : ClassId) :
    (throughNotified s k a).cls c = (forwardNotice s.gate.level a.cls (s.cls c)).1 := by
  have hc : (takeThrough k a s).cls c = s.cls c := rfl
  rw [throughNotified, deliverAll_eq, State.cls_mapCls, hc]

theorem grantThrough_of_given (ha : s.through = some a) (hk : lowestFree s = some k) (hg : throughGranted s = true) :
    grantThrough s = testDrain (atAllClasses (fun _ => forwardNotice s.gate.level a.cls) (takeThrough k a s)) := by
  simp only [grantThrough, ha, hk, hg, if_true]

theorem entry_of_eraseDecision {s t : State} (h : eraseDecision t = eraseDecision s) (k : EntryIndex) :
    t.entry k = s.entry k := by
  obtain ⟨-, -, -, -, he⟩ := fields_of_eraseDecision h
  rw [State.entry, he]
  rfl

theorem grantThrough_down (ha : s.through = some a) (hk : lowestFree s = some k) (hg : throughGranted s = true) :
    granted (grantThrough s) = (some (forwardOf k a), s.rrPos, .holdQueues) := by
  rw [grantThrough_of_given ha hk hg, granted_testDrain, granted_of_eraseDecision (atAllClasses_leaves _ _)]
  rfl

/-- While no request stalls the grant decides none. -/
theorem grantThrough_of_no_stall (ha : s.through = some a) (hk : lowestFree s = some k) (hg : throughGranted s = true)
    (hs : stalledAt s = none) : grantThrough s = throughNotified s k a := by
  have hstall : stalledAt (takeThrough k a s) = none := by
    by_contra hne
    obtain ⟨c, hc⟩ := Option.ne_none_iff_exists'.1 hne
    unfold stalledAt at hc
    split at hc
    · next r d hu =>
      have hup : s.up = .presented r d := redirectData_presented hu
      rw [stalledAt, hup] at hs
      cases hc.symm.trans hs
    · cases hc
  have hall : atAllClasses (fun _ => forwardNotice s.gate.level a.cls) (takeThrough k a s) = throughNotified s k a := by
    simp [atAllClasses, noticesStalled, hstall, throughNotified]
  rw [grantThrough_of_given ha hk hg, hall]
  exact testDrain_of_pending (throughNotified_entry s k a) rfl

end

/-- Settles O19. -/
theorem throughSlotForwarded : Obligations.ThroughSlotForwarded := by
  intro a k s hr hslots ha hk hd hm
  have hg := (throughGranted_iff s).2 ⟨hd, hm⟩
  have hfree := lowestFree_eq_some_iff.2 hk
  have hstall : stalledAt s = none := by
    by_contra hne
    rw [(hslots hne).1] at ha
    cases ha
  have hgrant := grantThrough_of_no_stall ha hfree hg hstall
  have hexec : exec .grantThroughSlot s = .next (noteTableFull s (grantThrough s)) :=
    happening_of_grant hr (by rw [hgrant, throughNotified_eq]; nofun)
  have heq := throughNotified_eq s k a
  have hup : (throughNotified s k a).up = redirectData .through s.up := by rw [heq]
  rw [hgrant] at hexec
  refine ⟨flightOf s a, throughNotified s k a, _, allocated_flightOf s a, hexec, ?_, fun n hn => ?_, fun hn => ?_,
    fun c => ?_, noteTableFull_upTo s _⟩
  · rw [hup]
    exact heq
  · rw [hup, hn]
    exact redirectData_of_taking .through n
  · rw [hup]
    exact redirectData_of_not hn
  · rw [throughNotified_cls]
    exact forwardNotice_leaves ..

/-! ### The grant of a head (R97) -/

section
variable {s : State} {c : ClassId} {a : Accepted} {rest : List Accepted} {k : EntryIndex}

theorem queuesGranted_iff (s : State) : queuesGranted s = true ↔
    s.down = none ∧ (s.through = none ∨ s.altMark = .holdQueues) := by
  simp [queuesGranted]

/-- The state that the grant leaves before the new decision. -/
def headNotified (s : State) (c : ClassId) (k : EntryIndex) (a : Accepted) (rest : List Accepted) : State :=
  deliverAll (fun _ => forwardNotice s.gate.level (some c)) (takeHead c k a rest s)

theorem headNotified_eq (s : State) (c : ClassId) (k : EntryIndex) (a : Accepted) (rest : List Accepted) :
    headNotified s c k a rest = { s.setEntry k (some (flightOf s { a with marked := false })) with
      rrPos := c
      altMark := .throughSlot
      down := some (forwardOf k a)
      up := if rest = [] then redirectData (.held c) s.up else s.up
      classes := (headNotified s c k a rest).classes } := by
  simp only [headNotified, deliverAll_eq, State.mapCls, takeHead, forwardOut, State.setEntry, State.updCls, State.setCls]
  rfl

theorem headNotified_entry :
    (headNotified s c k a rest).entry k = some (flightOf s { a with marked := false }) := by
  have he : (headNotified s c k a rest).entries =
      (s.setEntry k (some (flightOf s { a with marked := false }))).entries := by rw [headNotified_eq]
  rw [State.entry, he]
  exact State.entry_setEntry_same s k _

theorem headNotified_cls_ne {d : ClassId} (h : d ≠ c) :
    (headNotified s c k a rest).cls d = (forwardNotice s.gate.level (some c) (s.cls d)).1 := by
  have hd : (takeHead c k a rest s).cls d = s.cls d :=
    State.cls_setCls_ne (forwardOut k { a with marked := false } s) _ h
  rw [headNotified, deliverAll_eq, State.cls_mapCls, hd]

theorem headNotified_cls_same : (headNotified s c k a rest).cls c =
    (forwardNotice s.gate.level (some c) (releaseHead a.charge rest (s.cls c))).1 := by
  have hc : (takeHead c k a rest s).cls c = releaseHead a.charge rest (s.cls c) :=
    State.cls_setCls_same (forwardOut k { a with marked := false } s) c _
  rw [headNotified, deliverAll_eq, State.cls_mapCls, hc]

theorem grantQueues_of_given (hc : nextHead s = some c) (hk : lowestFree s = some k) (hq : (s.cls c).queue = a :: rest)
    (hg : queuesGranted s = true) : grantQueues s = redecide (headNotified s c k a rest) := by
  have hgrant : grantQueues s = testDrain (redecide (headNotified s c k a rest)) := by
    simp only [grantQueues, hc, hk, hq, hg, if_true]
    rfl
  have he : (redecide (headNotified s c k a rest)).entry k = some (flightOf s { a with marked := false }) :=
    (entry_of_eraseDecision (redecide_leaves _) k).trans headNotified_entry
  rw [hgrant]
  exact testDrain_of_pending he rfl

theorem grantQueues_granted (hc : nextHead s = some c) (hk : lowestFree s = some k) (hq : (s.cls c).queue = a :: rest)
    (hg : queuesGranted s = true) : granted (grantQueues s) = (some (forwardOf k a), c, .throughSlot) := by
  rw [grantQueues_of_given hc hk hq hg, granted_of_eraseDecision (redecide_leaves _), headNotified_eq]
  rfl

/-- What the grant takes from the remaining budget, by the class's state (R97, step 2). -/
theorem headReduction_of_unregulated {k : ClassRec} (n : Nat) (h : Unregulated k) : headReduction k n = 0 := by
  rcases h with h | h | h <;> simp [headReduction, h]

end

/-- Settles O20. -/
theorem headForwarded : Obligations.HeadForwarded := by
  intro c a rest k s hr hc hq hk hd hm
  have hfree := lowestFree_eq_some_iff.2 hk
  have hg := (queuesGranted_iff s).2 ⟨hd, hm⟩
  have hgrant := grantQueues_of_given hc hfree hq hg
  have hdown : (grantQueues s).down ≠ none := by
    rw [(Prod.mk.inj (grantQueues_granted hc hfree hq hg)).1]
    nofun
  have hexec : exec .grantHead s = .next (noteTableFull s (grantQueues s)) := happening_of_grant hr hdown
  have heq := headNotified_eq s c k a rest
  have hup : (headNotified s c k a rest).up = if rest = [] then redirectData (.held c) s.up else s.up := by rw [heq]
  rw [hgrant] at hexec
  refine ⟨flightOf s { a with marked := false }, headReduction (s.cls c) a.charge, headNotified s c k a rest, _,
    ⟨rfl, deadlineSet_deadlineOf s a.cls⟩, fun hs => by rw [headReduction, hs], fun hs => by rw [headReduction, hs],
    headReduction_of_unregulated _, hexec, ?_, fun n hn hrest => ?_, fun h => ?_, fun d hdc => ?_, ?_,
    noteTableFull_upTo s _⟩
  · rw [hup]
    exact heq
  · rw [hup, if_pos hrest, hn]
    exact redirectData_of_taking (.held c) n
  · rw [hup]
    split
    · next hrest => exact redirectData_of_not (h.resolve_right fun hne => hne hrest)
    · rfl
  · rw [headNotified_cls_ne hdc]
    exact forwardNotice_leaves ..
  · rw [headNotified_cls_same]
    exact forwardNotice_leaves ..

/-! ### The order of the choice (R95, R96) -/

theorem grantThrough_of_not_given {s : State} (h : s.through = none ∨ ¬ throughGranted s = true) : grantThrough s = s := by
  unfold grantThrough
  split
  · next ha _ =>
    rcases h with h | h
    · rw [ha] at h
      cases h
    · exact if_neg h
  · rfl

theorem grantQueues_of_not_given {s : State} (h : nextHead s = none ∨ ¬ queuesGranted s = true) : grantQueues s = s := by
  unfold grantQueues
  split
  · next hc _ =>
    rcases h with h | h
    · rw [hc] at h
      cases h
    · split
      · exact if_neg h
      · rfl
  · rfl

theorem happening_of_fixed {s : State} {f : State → State} (hr : s.resetN = .high) (h : f s = s) :
    happening s f = .next s := by
  rw [happening_high s hr, noted, h, noteTableFull_self, follow_self]

/-- The result of a grant's row, read from what has been granted. -/
theorem exists_granted {s : State} {f : State → State} {w : Forward} {p : ClassId} {m : Source} (hr : s.resetN = .high)
    (h : granted (f s) = (some w, p, m)) :
    ∃ t, happening s f = .next t ∧ t.down ≠ none ∧ t.altMark = m ∧ t.rrPos = p := by
  obtain ⟨hd, hrest⟩ := Prod.mk.inj h
  obtain ⟨hp, hm⟩ := Prod.mk.inj hrest
  refine ⟨_, happening_of_grant hr (by rw [hd]; nofun), ?_, ?_, ?_⟩ <;> rw [noteTableFull_eq]
  · rw [hd]
    nofun
  · exact hm
  · exact hp

/-- An eligible head is there (R91). -/
theorem queue_of_eligible {s : State} {c : ClassId} (h : eligible s c = true) : ∃ a rest, (s.cls c).queue = a :: rest := by
  obtain ⟨-, hready⟩ := eligible_iff.1 h
  obtain ⟨-, a, rest, hq, -⟩ := headReady_iff.1 hready
  exact ⟨a, rest, hq⟩

/-- Settles O22. -/
theorem alternationAndRoundRobin : Obligations.AlternationAndRoundRobin := by
  intro s hr hd hfree
  obtain ⟨k, hk⟩ := Option.ne_none_iff_exists'.1 ((lowestFree_ne_none s).2 hfree)
  refine ⟨nextHead_eq_some_iff s, nextHead_eq_none_iff s, fun ht ⟨c, hc⟩ => ⟨fun hm => ?_, fun hm => ?_⟩,
    fun ht hm => ?_, fun c hc hm => ?_, fun ht => ?_, fun hn => ?_⟩
  · refine happening_of_fixed hr (grantThrough_of_not_given (.inr fun hg => ?_))
    rcases ((throughGranted_iff s).1 hg).2 with h | h
    · rw [hm] at h
      cases h
    · rw [h c] at hc
      cases hc
  · refine happening_of_fixed hr (grantQueues_of_not_given (.inr fun hg => ?_))
    rcases ((queuesGranted_iff s).1 hg).2 with h | h
    · exact ht h
    · rw [hm] at h
      cases h
  · obtain ⟨a, ha⟩ := Option.ne_none_iff_exists'.1 ht
    exact exists_granted hr (grantThrough_down ha hk ((throughGranted_iff s).2 ⟨hd, hm⟩))
  · obtain ⟨a, rest, hq⟩ := queue_of_eligible ((nextHead_eq_some_iff s c).1 hc).1
    exact exists_granted hr (grantQueues_granted hc hk hq ((queuesGranted_iff s).2 ⟨hd, hm.symm⟩))
  · exact happening_of_fixed hr (grantThrough_of_not_given (.inl ht))
  · exact happening_of_fixed hr (grantQueues_of_not_given (.inl ((nextHead_eq_none_iff s).2 hn)))

end Sys2Proof.Machine
end

section
/-! The channels (R94, R120, R175, R177, R178, R180): write data, the beats of a forward and the held beats of a live
response. -/

namespace Sys2Proof.Machine

/-! ### A happening of which no wait and no choice comes -/

/-- What R91, R94 and R99 read is alike: whether the channel and the slot are taken, not with what. -/
structure WaitsAlike (s t : State) : Prop where
  free : lowestFree t = lowestFree s
  down : t.down.isNone = s.down.isNone
  through : t.through.isSome = s.through.isSome
  ready : ∀ c, headReady t c = headReady s c
  position : t.rrPos = s.rrPos

theorem WaitsAlike.choiceOpen_eq {s t : State} (h : WaitsAlike s t) : choiceOpen t = choiceOpen s := by
  have he : eligible t = eligible s := by
    funext c
    rw [eligible, eligible, h.free, h.ready]
  simp only [choiceOpen, nextHead, h.down, h.free, h.through, he, h.position]

theorem noted_of_waitsAlike {s u : State} {f : State → State} (h : f s = u) (hw : WaitsAlike s u) : noted f s = u := by
  have hn : noteTableFull s u = u := by
    refine noteTableFull_same hw.free (fun hs => ?_) fun c hc => (hw.ready c).symm.trans hc
    have hthrough := hw.through
    rw [hs] at hthrough
    simpa using hthrough
  rw [noted, h, hn, follow_elsewhere hw.choiceOpen_eq]

/-! ### Write data (R177) -/

theorem changeLast_append (f : Accepted → Accepted) (a : Accepted) : ∀ q, changeLast f (q ++ [a]) = q ++ [f a]
  | [] => rfl
  | [_] => rfl
  | b :: b' :: q => congrArg (List.cons b) (changeLast_append f a (b' :: q))

/-- Of a hold queue the arbiter reads the head's charge alone (R91). -/
theorem headReady_of_items {s t : State} {c : ClassId} {q : List Accepted} (hc : t.cls c = { s.cls c with queue := q })
    (hf : flushInForce t = flushInForce s) (h : heldItems q = heldItems (s.cls c).queue) :
    headReady t c = headReady s c := by
  unfold headReady
  rw [hc, hf]
  cases hs : (s.cls c).queue with
  | nil =>
    rw [hs] at h
    simp only [List.map_eq_nil_iff.1 h, hs]
  | cons a l =>
    rw [hs] at h
    obtain ⟨b, m, rfl, hb, -⟩ := List.map_eq_cons_iff.1 h
    have hcharge : b.charge = a.charge := (congrArg Accepted.charge hb :)
    simp only [hcharge, hs]

theorem headReady_setQueue {s : State} {c : ClassId} {q : List Accepted} (u : UpChannel)
    (h : heldItems q = heldItems (s.cls c).queue) (d : ClassId) :
    headReady (({ s with up := u } : State).setCls c { s.cls c with queue := q }) d = headReady s d := by
  by_cases hd : d = c
  · subst hd
    exact headReady_of_items (State.cls_setCls_same _ d _) rfl h
  · have hcls : (({ s with up := u } : State).setCls c { s.cls c with queue := q }).cls d = s.cls d :=
      State.cls_setCls_ne _ _ hd
    exact headReady_of_items (q := (s.cls d).queue) hcls rfl rfl

section
variable {d : Data} {n : Nat} {s : State}

theorem exec_upstreamWriteDataBeat (d : Data) {s : State} (hr : s.resetN = .high) :
    exec (.upstreamWriteDataBeat d) s = .next (noted (takeDataBeat d) s) := happening_high s hr

/-- A data beat changes nothing that is waited for. -/
theorem exec_dataBeat_of_taking {place : Place} {u : State} (hr : s.resetN = .high) (hu : s.up = .taking place n)
    (h : { storeBeat place d s with up := afterBeat place n } = u) (hw : WaitsAlike s u) :
    exec (.upstreamWriteDataBeat d) s = .next u := by
  have htake : takeDataBeat d s = u := by rw [takeDataBeat, hu]; exact h
  rw [exec_upstreamWriteDataBeat d hr, noted_of_waitsAlike htake hw]

end

/-- Settles O18. -/
theorem writeDataBeatStored : Obligations.WriteDataBeatStored := by
  refine ⟨fun r p => ⟨fun h => by rw [afterHeader, h], fun h => by rw [afterHeader, h]; rfl⟩, fun d n s hr =>
    ⟨fun hu => ?_, fun a hu ha => ?_, fun f hu hf => ?_, fun c q a hu hq => ?_, fun p => ⟨rfl, rfl⟩, fun hu => ?_⟩⟩
  · exact exec_dataBeat_of_taking hr hu rfl ⟨rfl, rfl, rfl, fun _ => rfl, rfl⟩
  · refine exec_dataBeat_of_taking hr hu ?_ ⟨rfl, rfl, by rw [ha]; rfl, fun _ => rfl, rfl⟩
    rw [storeBeat, ha]
    rfl
  · refine exec_dataBeat_of_taking hr hu ?_ ⟨rfl, by rw [hf]; rfl, rfl, fun _ => rfl, rfl⟩
    rw [storeBeat, hf]
    rfl
  · have hitems : heldItems (q ++ [{ a with data := a.data ++ [d] }]) = heldItems (s.cls c).queue := by
      rw [hq]
      simp [heldItems]
    refine exec_dataBeat_of_taking hr hu ?_ ⟨rfl, rfl, rfl, headReady_setQueue _ hitems, rfl⟩
    rw [storeBeat, State.updCls_eq, hq, changeLast_append]
    rfl
  · rw [exec_upstreamWriteDataBeat d hr]
    have hidle : takeDataBeat d s = s := by
      unfold takeDataBeat
      split
      · next p m h => exact absurd h (hu p m)
      · rfl
    rw [noted, hidle, noteTableFull_self, follow_self]

/-! ### The beats of a forward (R175, R178) -/

section
variable {s : State} {f : Forward}

theorem downRequestOffer_eq (hr : s.resetN = .high) : downRequestOffer s = (s.down.bind forwardBeat).map downPins :=
  if_pos hr

theorem takeForward_of_last {b : ForwardBeat} (hd : s.down = some f) (hb : forwardBeat f = some b)
    (hl : forwardLength f.header ≤ f.sent + 1) : takeForward s = { s with down := none } := by
  simp [takeForward, hd, hb, hl]

theorem takeForward_of_more {b : ForwardBeat} (hd : s.down = some f) (hb : forwardBeat f = some b)
    (hl : ¬ forwardLength f.header ≤ f.sent + 1) :
    takeForward s = { s with down := some { f with sent := f.sent + 1 } } := by
  simp [takeForward, hd, hb, hl]

theorem takeForward_of_no_beat (h : s.down.bind forwardBeat = none) : takeForward s = s := by
  unfold takeForward
  split
  · next g hg =>
    rw [hg] at h
    exact if_pos (by rw [show forwardBeat g = none from h]; rfl)
  · rfl

theorem exec_requestTaken_of_last {b : ForwardBeat} (hr : s.resetN = .high) (hd : s.down = some f)
    (hb : forwardBeat f = some b) (hl : forwardLength f.header ≤ f.sent + 1) :
    ∃ t, exec .downstreamRequestTaken s = .next t ∧ Follows s { s with down := none } t := by
  have ht := takeForward_of_last hd hb hl
  have hf := noted_follows s (f := takeForward) (by rw [ht]; exact hr)
  rw [ht] at hf
  exact ⟨_, happening_high s hr, hf⟩

theorem exec_requestTaken_of_more {b : ForwardBeat} (hr : s.resetN = .high) (hd : s.down = some f)
    (hb : forwardBeat f = some b) (hl : ¬ forwardLength f.header ≤ f.sent + 1) :
    exec .downstreamRequestTaken s = .next { s with down := some { f with sent := f.sent + 1 } } := by
  rw [exec_downstreamRequestTaken, happening_high s hr, noted_of_waitsAlike (takeForward_of_more hd hb hl)
    ⟨rfl, by rw [hd]; rfl, rfl, fun _ => rfl, rfl⟩]

end

/-- Without a beat that is offered DOWNSTREAM_REQUEST_TAKEN leaves the state. -/
theorem requestTaken_of_no_beat {s : State} (hr : s.resetN = .high) (h : s.down.bind forwardBeat = none) :
    downRequestOffer s = none ∧ exec .downstreamRequestTaken s = .next s := by
  refine ⟨by rw [downRequestOffer_eq hr, h]; rfl, ?_⟩
  rw [exec_downstreamRequestTaken]
  exact happening_of_fixed hr (takeForward_of_no_beat h)

/-! ### The held beats of a live response (R180) -/

theorem takeHeld_of_none {s : State} (h : ∀ k tag b st e, s.upResp ≠ .live k tag (some b) st e) : takeHeld s = s := by
  unfold takeHeld
  split
  · next hu => exact absurd hu (h _ _ _ _ _)
  · next hu => exact absurd hu (h _ _ _ _ _)
  · rfl

/-- Settles O24. -/
theorem channelsFreed : Obligations.ChannelsFreed := by
  intro s hr
  refine ⟨fun h d hd => ⟨?_, fun hk => ?_, fun hk => ?_⟩, fun h l x r hd hk => ?_, fun h d j hd hj => ?_, fun hd => ?_,
    fun k tag b st hu => ?_, fun k tag b st hu => ?_, fun hu => ?_⟩
  · rw [downRequestOffer_eq hr, hd]
    cases hk : h.kind <;> simp [forwardBeat, downPins, kindBit, hk]
  · exact exec_requestTaken_of_last hr hd rfl (by simp [forwardLength, hk])
  · exact exec_requestTaken_of_more hr hd rfl (by simp [forwardLength, hk, beats])
  · have hb : forwardBeat ⟨h, l ++ x :: r, l.length + 1⟩ = some (.data x) := by simp [forwardBeat]
    have hlen : forwardLength h = h.len.toNat + 2 := by rw [forwardLength, hk]; rfl
    refine ⟨by rw [downRequestOffer_eq hr, hd, Option.bind_some, hb]; rfl, fun hl => ?_, fun hl => ?_⟩
    · exact exec_requestTaken_of_more hr hd hb (by rw [hlen]; dsimp only; omega)
    · exact exec_requestTaken_of_last hr hd hb (by rw [hlen]; dsimp only; omega)
  · refine requestTaken_of_no_beat hr ?_
    rw [hd, Option.bind_some]
    simp [forwardBeat, hj]
  · exact requestTaken_of_no_beat hr (by rw [hd]; rfl)
  · have ht : takeHeld s = arbitrate { s with upResp := .free } := by rw [takeHeld, hu]
    have hhigh : (arbitrate { s with upResp := .free }).resetN = .high :=
      kept_resetHigh.keptArbitrate (s := { s with upResp := .free }) hr
    have hf := noted_follows s (f := takeHeld) (by rw [ht]; exact hhigh)
    rw [ht] at hf
    exact ⟨_, _, arbitrate_arbitrates _, happening_high s hr, hf⟩
  · have ht : takeHeld s = { s with upResp := .live k tag none st false } := by rw [takeHeld, hu]
    refine ⟨_, rfl, ?_, ?_⟩
    · exact (happening_high s hr).trans (congrArg _ (noted_of_waitsAlike ht ⟨rfl, rfl, rfl, fun _ => rfl, rfl⟩))
    · rw [upResponseOffer, if_pos hr]
      rfl
  · exact happening_of_fixed hr (takeHeld_of_none hu)

end Sys2Proof.Machine
end

section
/-! The upstream response arbiter and the passing of responses (R109 to R112, R119 to R122, R176, R179, R180). -/

namespace Sys2Proof.Machine

/-! ### The command -/

theorem namesStreaming_of_not {p : Option DownBeat} {s : State}
    (h : ∀ b f, p = some b → s.entry b.tag = some f → f.phase ≠ .streaming) : namesStreaming p s = false := by
  unfold namesStreaming
  cases p with
  | none => exact Bool.and_false _
  | some b =>
    dsimp only
    cases he : s.entry b.tag with
    | none => exact Bool.and_false _
    | some f => simp [h b f rfl he]

theorem exec_upstreamResponseChoice {p : Option DownBeat} {s : State} (hr : s.resetN = .high)
    (hn : namesStreaming p s = false) :
    exec (.upstreamResponseChoice p) s = .next (noted (fun s => arbitrate (presentFirst p s)) s) := by
  have he : exec (.upstreamResponseChoice p) s = execUpstreamResponseChoice p s := rfl
  rw [he, execUpstreamResponseChoice, if_neg (by simp [hn]), happening_high s hr]

/-- A response that is chosen, or a beat that comes to stand, opens no choice of the other arbiter. -/
theorem noted_of_response {s : State} {f : State → State} {d : Option DownBeat} {u : RespChannel}
    (h : f s = { s with standing := d, upResp := u }) : noted f s = { s with standing := d, upResp := u } :=
  noted_elsewhere h rfl rfl rfl rfl rfl rfl

/-! ### The offer of a first beat (R109) -/

section
variable (p : Option DownBeat) (s : State)

theorem presentFirst_eq : presentFirst p s = { s with standing := (presentFirst p s).standing } := by
  rcases presentFirst_cases s p with e | ⟨b, f, -, -, -, -, e⟩ <;> rw [e]

theorem beatStands_presentFirst : BeatStands p s (presentFirst p s).standing := by
  refine ⟨fun b f hp hopen he hpend => ?_, fun hn => ?_⟩
  · have hd : downstreamOpen s = true := (downstreamOpen_iff s).2 hopen
    simp [presentFirst, hp, he, hd, hpend]
  · rcases presentFirst_cases s p with e | ⟨b, f, hp, hd, he, hpend, -⟩
    · rw [e]
    · exact absurd hpend (hn b f hp ((downstreamOpen_iff s).1 hd) he)

end

/-! ### A generated response (R120, R121) -/

theorem generatedBeats_le_one (kind : Kind) (len : BitVec 4) :
    generatedBeats kind len ≤ 1 ↔ generatedBeats kind len = 1 := by
  cases kind <;> simp [generatedBeats, beats]

theorem upResponseOffer_generated {s : State} {source : GenSource} {tag : BitVec 8} {n : Nat} (hr : s.resetN = .high)
    (h : s.upResp = .generated source tag n) :
    upResponseOffer s = some ⟨tag, upStatusCode (generatedStatus source), 0, decide (n ≤ 1)⟩ := by
  rw [upResponseOffer, if_pos hr, h]
  rfl

/-- Settles O25: the offer, and then the first three sources in the order of the arbiter. -/
theorem generatedResponseChosen : Obligations.GeneratedResponseChosen := by
  refine ⟨fun p s hr hp => ?_, fun len => ⟨rfl, rfl⟩⟩
  have hexec := exec_upstreamResponseChoice hr (namesStreaming_of_not hp)
  obtain ⟨d, hd⟩ : ∃ d, d = (presentFirst p s).standing := ⟨_, rfl⟩
  have hfirst : presentFirst p s = { s with standing := d } := hd ▸ presentFirst_eq p s
  have harb := arbitrate_arbitrates { s with standing := d }
  have hchosen {u : RespChannel} (h : arbitrate { s with standing := d } = { s with standing := d, upResp := u }) :
      exec (.upstreamResponseChoice p) s = .next { s with standing := d, upResp := u } := by
    rw [hexec, noted_of_response (by rw [hfirst, h])]
  have hoffer (source : GenSource) (tag : BitVec 8) (kind : Kind) (len : BitVec 4) :
      upResponseOffer { s with standing := d, upResp := .generated source tag (generatedBeats kind len) } =
        some ⟨tag, upStatusCode (generatedStatus source), 0, decide (generatedBeats kind len = 1)⟩ := by
    rw [upResponseOffer_generated (s := { s with standing := d, upResp := .generated source tag _ }) hr rfl]
    simp only [generatedBeats_le_one]
  refine ⟨d, hd ▸ beatStands_presentFirst p s, fun hu => ?_, fun hu x hx => ?_, fun hu hx k f hf ho hl => ?_,
    fun hu hx hn hw => ?_⟩
  · exact hchosen (harb.busy hu)
  · exact ⟨_, hchosen (harb.refused hu x hx), rfl, hoffer .refusedSlot x.tag x.kind x.len⟩
  · exact ⟨_, hchosen (harb.owed hu hx k f hf ho hl), rfl, hoffer (.owedTimeout k) f.tag f.kind f.len⟩
  · exact hchosen (harb.nothing hu hx hn hw)

/-! ### What no arbiter of the downstream channel reads -/

theorem lowestFree_setEntry_some {s : State} {k : EntryIndex} {f : Flight} (h : s.entry k = some f) (g : Flight) :
    lowestFree (s.setEntry k (some g)) = lowestFree s := by
  unfold lowestFree
  congr 1
  funext j
  rw [State.entry_setEntry]
  split
  · next hj =>
    rw [hj, h]
    rfl
  · rfl

theorem waitsAlike_of_alike {s t : State} (hl : lowestFree t = lowestFree s) (hd : t.down = s.down)
    (ht : t.through = s.through) (hp : t.rrPos = s.rrPos) (hq : t.quiesce = s.quiesce) (hf : t.flush = s.flush)
    (hc : ∀ c, ArbiterReadsAlike (t.cls c) (s.cls c)) : WaitsAlike s t :=
  ⟨hl, by rw [hd], by rw [ht], headReady_congr hc hq hf, hp⟩

theorem arbiterReadsAlike_refl (k : ClassRec) : ArbiterReadsAlike k k := ⟨rfl, rfl, rfl, rfl, rfl⟩

/-! ### A live response (R110 to R112) -/

/-- The first beat that comes to stand, or stands already, is the one the arbiter finds. -/
theorem presentFirst_of_first {p : Option DownBeat} {b : DownBeat} {f : Flight} {s : State} (hu : s.upResp = .free)
    (hb : s.standing = some b ∨ (s.standing = none ∧ s.discard = none ∧ p = some b)) (he : s.entry b.tag = some f)
    (hp : f.phase = .pending) : presentFirst p s = { s with standing := some b } ∧ namesStreaming p s = false := by
  rcases hb with hb | ⟨hs, hd, rfl⟩
  · have hclosed : downstreamOpen s = false := by simp [downstreamOpen, hb]
    refine ⟨?_, by simp [namesStreaming, hclosed]⟩
    rcases presentFirst_cases s p with e | ⟨_, _, -, ho, -⟩
    · rw [e, ← hb]
    · rw [hclosed] at ho
      cases ho
  · have hopen : downstreamOpen s = true := by simp [downstreamOpen, hs, hd, livePassing, hu]
    refine ⟨by simp [presentFirst, he, hopen, hp], namesStreaming_of_not fun c g hc hg => ?_⟩
    cases hc
    rw [he] at hg
    cases hg
    rw [hp]
    nofun

/-- A happening with its own change named. -/
theorem exists_follows {s u : State} {f : State → State} (hr : s.resetN = .high) (h : f s = u) (hu : u.resetN = .high) :
    ∃ t, happening s f = .next t ∧ Follows s u t := by
  have hf := noted_follows s (f := f) (by rw [h]; exact hu)
  rw [h] at hf
  exact ⟨_, happening_high s hr, hf⟩

theorem resetN_arbitrate {s : State} (h : s.resetN = .high) : (arbitrate s).resetN = .high :=
  kept_resetHigh.keptArbitrate h

/-- Settles O26. -/
theorem liveResponseBegins : Obligations.LiveResponseBegins := by
  intro p b f s hr hu hx hn hb he hp
  refine ⟨?_, fun k beat st e => ?_, ⟨rfl, rfl, rfl⟩, ⟨rfl, rfl, rfl, rfl⟩⟩
  · obtain ⟨hfirst, hnames⟩ := presentFirst_of_first hu hb he hp
    obtain ⟨v, hv⟩ : ∃ v, v = arbitrate { s with standing := some b } := ⟨_, rfl⟩
    have hbegins : LiveBegins b f { s with standing := none } v :=
      hv ▸ (arbitrate_arbitrates { s with standing := some b }).live hu hx hn b f rfl he hp
    have heff : arbitrate (presentFirst p s) = v := by rw [hv, ← hfirst]
    obtain ⟨t, ht, hf⟩ := exists_follows hr (f := fun s => arbitrate (presentFirst p s)) heff
      (hv ▸ resetN_arbitrate (s := { s with standing := some b }) hr)
    rw [happening_high s hr] at ht
    rw [← Host.Outcome.next.inj ht] at hf
    refine ⟨v, _, hbegins, exec_upstreamResponseChoice hr hnames, hf, fun hk hl => ?_⟩
    refine noted_of_waitsAlike (f := fun s => arbitrate (presentFirst p s)) heff ?_
    rw [hbegins.streams hk hl]
    exact waitsAlike_of_alike (lowestFree_setEntry_some (s := { s with standing := none }) he _) rfl rfl rfl rfl rfl
      fun _ => arbiterReadsAlike_refl _
  · have hhigh : (holding k beat st e s).resetN = .high := hr
    rw [upResponseOffer, if_pos hhigh]
    rfl

theorem worstStatus_eq (st x : RespStatus) : worstStatus st x = if st = .okay then x else st := by cases st <;> rfl

section
variable {b : DownBeat} {k : EntryIndex} {tag : BitVec 8} {held : Option UpBeat} {st : RespStatus} {f : Flight} {s : State}

theorem passNext_of_more (hu : s.upResp = .live k tag held st false) (hl : b.last = false) :
    passNext b s = holding k ⟨tag, liveStatus b.status, b.data, false⟩
      (if st = .okay then liveStatus b.status else st) false s := by
  rw [← worstStatus_eq]
  unfold passNext
  rw [hu]
  dsimp only
  split <;> simp [hl, holdBeat, holding]

theorem passNext_of_last (hu : s.upResp = .live k tag held st false) (he : s.entry k = some f) (hp : f.phase = .streaming)
    (hl : b.last = true) : passNext b s = completeEntry k f (if st = .okay then liveStatus b.status else st)
      (holding k ⟨tag, liveStatus b.status, b.data, true⟩ (if st = .okay then liveStatus b.status else st) true s) := by
  simp [passNext, hu, he, hp, hl, holdBeat, holding, worstStatus_eq]

end

theorem happening_of_response {s : State} {f : State → State} {u : RespChannel} (hr : s.resetN = .high)
    (h : f s = { s with upResp := u }) : happening s f = .next { s with upResp := u } := by
  rw [happening_high s hr, noted_of_response (d := s.standing) h]

/-- Settles O27. -/
theorem liveResponseContinues : Obligations.LiveResponseContinues := by
  intro b k tag held st f s hr hu he hp
  refine ⟨fun hl => happening_of_response hr (passNext_of_more hu hl), fun hl => ?_⟩
  have hnext := passNext_of_last hu he hp hl
  obtain ⟨t, ht, hf⟩ := exists_follows hr hnext (hnext ▸ kept_resetHigh.keptPassNext b hr)
  exact ⟨_, t, completeEntry_endOfLife .., ht, hf⟩

/-! ### The beats of a generated response (R119 to R122) -/

theorem takeGenerated_of_not {s : State} (h : ∀ source x n, s.upResp ≠ .generated source x n) : takeGenerated s = s := by
  unfold takeGenerated
  split
  · next hu => exact absurd hu (h _ _ _)
  · rfl

theorem clearOwed_of_abandoned {s : State} {k : EntryIndex} {f : Flight} (he : s.entry k = some f)
    (hp : f.phase = .abandoned) :
    clearOwed k s = s.setEntry k (if f.lateConsumed then none else some { f with owed := false }) := by
  simp [clearOwed, he, hp]

/-- Settles O28. -/
theorem generatedBeatTaken : Obligations.GeneratedBeatTaken := by
  intro tag s hr
  refine ⟨fun source n hu => ?_, fun hu => ?_, fun k f hu he hp => ?_, fun h => ?_⟩
  · exact happening_of_response hr (by simp [takeGenerated, hu])
  · have hend : takeGenerated s = arbitrate (testDrain { s with refused := none, upResp := .free }) := by
      simp [takeGenerated, hu, endGenerated]
    obtain ⟨t, ht, hf⟩ := exists_follows hr hend (hend ▸ kept_resetHigh.keptTakeGenerated hr)
    exact ⟨_, t, arbitrate_arbitrates _, ht, hf⟩
  · have hend : takeGenerated s = arbitrate (testDrain (clearOwed k { s with upResp := .free })) := by
      simp [takeGenerated, hu, endGenerated]
    obtain ⟨t, ht, hf⟩ := exists_follows hr hend (hend ▸ kept_resetHigh.keptTakeGenerated hr)
    have hclear := clearOwed_of_abandoned (s := { s with upResp := .free }) he hp
    refine ⟨_, t, ht, hf, fun hl => ?_, fun hl => ?_⟩ <;> rw [hclear, hl] <;> exact arbitrate_arbitrates _
  · exact happening_of_fixed hr (takeGenerated_of_not h)

end Sys2Proof.Machine
end

section
/-! Abandonment, and the responses that are discarded (R113 to R119, R179). -/

namespace Sys2Proof.Machine

/-! ### Abandonment (R114) -/

/-- The choice of the arbiter in an abandonment is the one it makes of the owed TIMEOUT response (R114, R120). -/
theorem abandonEntry_abandons (k : EntryIndex) (f : Flight) (s : State) : Abandons k f s (abandonEntry k f s) := by
  refine ⟨s.setEntry k (some (abandonedFlight f)), loseRequest k f s, rfl, fun hc => ?_, fun c hc => ?_, ?_⟩
  · simp only [loseRequest, hc]
  · simp only [loseRequest, hc, lowerOutstanding, State.updCls_eq, State.cls_setCls_same, State.setCls_setCls]
    rfl
  · rw [abandonEntry, ← arbitrate_of_generated _ (.inr (not_nothingOwed_loseRequest s k f))]
    exact arbitrate_arbitrates _

theorem resetN_abandonEntry {k : EntryIndex} {f : Flight} {s : State} (h : s.resetN = .high) (he : s.entry k = some f)
    (hp : f.phase = .pending) : (abandonEntry k f s).resetN = .high := kept_resetHigh.keptAbandonEntry he hp h

/-- Settles O29: at its deadline the entry is abandoned, and at any other tick nothing happens. -/
theorem deadlineAbandons : Obligations.DeadlineAbandons := by
  refine fun k s hr => ⟨fun f he hp hd => ?_, fun h => ?_⟩
  · have hreach : reachDeadline k s = abandonEntry k f s := by simp [reachDeadline, he, hp, hd]
    obtain ⟨t, ht, hf⟩ := exists_follows hr hreach (resetN_abandonEntry hr he hp)
    exact ⟨_, t, abandonEntry_abandons k f s, ht, hf⟩
  · refine happening_of_fixed hr (reachDeadline_of_not s fun f he hboth => ?_)
    exact (h f he).elim (fun hn => hn hboth.1) fun hn => hn hboth.2

theorem entryObject_of_eq {o : Byte} {k : EntryIndex} (h : o.toNat = k.val) : entryObject o = some k := by
  have hlt : o.toNat < 64 := h ▸ k.isLt
  rw [entryObject, dif_pos hlt]
  exact congrArg some (Fin.ext h)

theorem entryObject_of_outside {o : Byte} (h : 64 ≤ o.toNat) : entryObject o = none := dif_neg (by omega)

/-- Settles O30, by what the object names. -/
theorem abandonCommand : Obligations.AbandonCommand := by
  refine fun o f v s hl => ⟨fun k e ho he hp => ?_, fun k ho hn => ?_, fun ho => ?_⟩
  · have hrun : runAbandon o s = (abandonEntry k e s, okay) := by
      simp [runAbandon, entryObject_of_eq ho, abandonAt, he, hp]
    obtain ⟨t, ht, hf, ha⟩ := manage_follows s hl hrun (resetN_abandonEntry hl.1 he hp)
    exact ⟨_, t, abandonEntry_abandons k e s, ht, hf, ha⟩
  · refine manage_refused s hl ?_
    rw [runAbandon, entryObject_of_eq ho]
    dsimp only [abandonAt]
    split
    · next e he => exact if_neg (hn e he)
    · rfl
  · refine manage_refused s hl ?_
    rw [runAbandon, entryObject_of_outside ho]

/-! ### The first beat of a discarded response (R109, R117) -/

theorem firstPresented_of_first {b p : DownBeat} {s : State} (h : FirstBeatIs s b p) : firstPresented b s = p := by
  rcases h with h | ⟨h, rfl⟩ <;> rw [firstPresented, h] <;> rfl

theorem noteLate_of_class {s : State} {c : ClassId} : noteLate (some c) s = s.setCls c { s.cls c with
    live := { (s.cls c).live with lateResponses := bump (s.cls c).live.lateResponses 1 }
    flags := { (s.cls c).flags with late := true } } := rfl

/-- LATE and its count are nothing that the arbiter reads. -/
theorem noteLate_readsAlike (x : Option ClassId) (s : State) (c : ClassId) :
    ArbiterReadsAlike ((noteLate x s).cls c) (s.cls c) := by
  cases x with
  | none => exact arbiterReadsAlike_refl _
  | some n =>
    rw [noteLate_of_class, State.cls_setCls]
    split
    · next h =>
      rw [h]
      exact ⟨rfl, rfl, rfl, rfl, rfl⟩
    · exact arbiterReadsAlike_refl _

/-- A late first beat leaves, but for its class and the standing beat, the state alone. -/
theorem noteLate_eq (x : Option ClassId) (s : State) : noteLate x s = { s with classes := (noteLate x s).classes } := by
  cases x <;> rfl

section
variable {s u : State} {k : EntryIndex} {f : Flight} {x : Option ClassId} (hu : u = noteLate x { s with standing := none })
include hu

theorem late_eq : u = { s with standing := none, classes := u.classes } := hu.trans (hu ▸ noteLate_eq x _)

theorem late_readsAlike (c : ClassId) : ArbiterReadsAlike (u.cls c) (s.cls c) :=
  hu ▸ noteLate_readsAlike x { s with standing := none } c

theorem waitsAlike_late : WaitsAlike s u := by
  have hc := late_readsAlike hu
  have he := late_eq hu
  generalize u.classes = l at he
  subst he
  exact waitsAlike_of_alike (lowestFree_congr rfl) rfl rfl rfl rfl rfl hc

theorem entry_late : u.entry k = s.entry k := by
  rw [late_eq hu]
  rfl

end

/-- An entry that stays in use is nothing that the arbiter reads. -/
theorem WaitsAlike.setEntry_some {s u : State} {k : EntryIndex} {f : Flight} (h : WaitsAlike s u) (he : u.entry k = some f)
    (g : Flight) : WaitsAlike s (u.setEntry k (some g)) :=
  ⟨(lowestFree_setEntry_some he g).trans h.free, h.down, h.through, h.ready, h.position⟩

theorem WaitsAlike.discarding {s u : State} (h : WaitsAlike s u) (d : Option Discard) : WaitsAlike s { u with discard := d } :=
  ⟨h.free, h.down, h.through, h.ready, h.position⟩

theorem waitsAlike_refl (s : State) : WaitsAlike s s := ⟨rfl, rfl, rfl, fun _ => rfl, rfl⟩

/-! ### The end of a late response (R119) -/

section
variable {s : State} {k : EntryIndex} {f : Flight} (he : s.entry k = some f) (hp : f.phase = .abandoned)
include he hp

theorem consumeLate_of_owed (ho : f.owed = true) : consumeLate k s = s.setEntry k (some { f with lateConsumed := true }) := by
  simp [consumeLate, he, hp, ho]

theorem consumeLate_of_not_owed (ho : f.owed = false) : consumeLate k s = s.setEntry k none := by
  simp [consumeLate, he, hp, ho]

end

theorem happening_of_waitsAlike {s u : State} {f : State → State} (hr : s.resetN = .high) (h : f s = u) (hw : WaitsAlike s u) :
    happening s f = .next u := by
  rw [happening_high s hr, noted_of_waitsAlike h hw]

section
variable {b p : DownBeat} {f : Flight} {s : State} (hb : FirstBeatIs s b p) (hd : s.discard = none)
  (hv : livePassing s = false) (he : s.entry p.tag = some f)
include hb hd hv he

theorem lateBeat_of_first (hp : f.phase = .abandoned) (hl : f.lateConsumed = false) :
    lateBeat b s = beginLate p.tag f p.last { s with standing := none } := by
  simp [lateBeat, hd, hv, firstPresented_of_first hb, he, hp, hl]

theorem strayBeat_of_consumed (hp : f.phase = .abandoned) (hl : f.lateConsumed = true) :
    strayBeat b s = beginStray (p.last || decide (f.kind = .write)) { s with standing := none } := by
  simp [strayBeat, hd, hv, firstPresented_of_first hb, he, hp, hl]

end

/-- Settles O31: the first beat and its end, then the beats behind it. -/
theorem lateResponseDiscarded : Obligations.LateResponseDiscarded := by
  refine fun b s hr => ⟨fun p f hb hd hv he hp hl => ?_, fun k f hd he hp => ?_⟩
  · obtain ⟨u, hu⟩ : ∃ u, u = noteLate f.cls { s with standing := none } := ⟨_, rfl⟩
    have hfirst := lateBeat_of_first hb hd hv he hp hl
    have hentry : u.entry p.tag = some f := (entry_late hu).trans he
    have hhigh : u.resetN = .high := (congrArg State.resetN (late_eq hu)).trans hr
    have hwait := waitsAlike_late hu
    have hends (hk : f.kind = .write ∨ p.last = true) : lateBeat b s = consumeLate p.tag u := by
      rw [hfirst, beginLate, if_pos hk, hu]
    refine ⟨u, fun hc => ?_, fun c hc => ?_, fun hk ho => ?_, fun hk ho => ?_, fun hk hm => ?_⟩
    · rw [hu, hc]
      rfl
    · rw [hu, hc]
      exact noteLate_of_class
    · exact happening_of_waitsAlike hr ((hends hk).trans (consumeLate_of_owed hentry hp ho)) (hwait.setEntry_some hentry _)
    · exact exists_follows hr ((hends hk).trans (consumeLate_of_not_owed hentry hp ho)) hhigh
    · refine happening_of_waitsAlike hr ?_ (hwait.discarding _)
      rw [hfirst, beginLate, if_neg (by simp [hk, hm]), hu]
  · have hlate : lateBeat b s = if b.last then consumeLate k { s with discard := none } else s := by simp [lateBeat, hd]
    have hends (hl : b.last = true) : lateBeat b s = consumeLate k { s with discard := none } := hlate.trans (if_pos hl)
    refine ⟨fun hl => ?_, fun hl ho => ?_, fun hl ho => ?_⟩
    · exact happening_of_fixed hr (by simp [hlate, hl])
    · exact happening_of_waitsAlike hr ((hends hl).trans (consumeLate_of_owed (s := { s with discard := none }) he hp ho))
        (((waitsAlike_refl s).discarding none).setEntry_some (u := { s with discard := none }) he _)
    · exact exists_follows hr ((hends hl).trans (consumeLate_of_not_owed (s := { s with discard := none }) he hp ho)) hr

/-! ### Stray responses (R118) -/

/-- The first beat of a stray response that is the whole of it, or is not. -/
theorem happening_of_stray {b : DownBeat} {ends : Bool} {s : State} (hr : s.resetN = .high) (hd : s.discard = none)
    (h : strayBeat b s = beginStray ends { s with standing := none }) : exec (.strayResponse b) s = .next { s with
      standing := none
      gflags := { s.gflags with stray := true }
      discard := if ends then none else some .stray } := by
  refine happening_of_waitsAlike hr ?_ ⟨rfl, rfl, rfl, fun _ => rfl, rfl⟩
  rw [h, ← hd]
  cases ends <;> rfl

/-- Settles O32: the first beat, by what its tag names, then the beats behind it. -/
theorem strayResponseDiscarded : Obligations.StrayResponseDiscarded := by
  refine fun b s hr => ⟨fun p hb hd hv => ⟨fun he => ?_, fun f he hp hl => ?_⟩, fun hd => ?_⟩
  · refine happening_of_stray hr hd ?_
    simp [strayBeat, hd, hv, firstPresented_of_first hb, he]
  · have h := happening_of_stray hr hd (strayBeat_of_consumed hb hd hv he hp hl)
    simpa using h
  · refine happening_of_waitsAlike hr ?_ ((waitsAlike_refl s).discarding _)
    have h : strayBeat b s = if b.last then { s with discard := none } else s := by simp [strayBeat, hd]
    rw [h, ← hd]
    split <;> rfl

end Sys2Proof.Machine
end

section
/-! The measurement unit: what a completion notice adds to the live record and to the capture log (R128 to R133, R139, R140). -/

namespace Sys2Proof.Machine

/-! ### Counts and intervals (R129, R130) -/

theorem bump_eq (count n : Nat) : bump count n = min (count + n) 4294967295 := rfl

theorem span_eq (a b : Time) : span a b = min ((b.toNat + 4294967296 - a.toNat) % 4294967296) 16777215 := by
  have hsub : (b - a).toNat = (b.toNat + 4294967296 - a.toNat) % 4294967296 := by bv_omega
  rw [span, hsub]
  rfl

section
variable (f : Flight) (now : Time)

theorem waitTicks_timeout : waitTicks f .timeout now = span f.forwardTime now := rfl

theorem streamTicks_timeout : streamTicks f .timeout now = none := rfl

variable {f} {status : RespStatus} (hs : status ≠ .timeout)
include hs

theorem waitTicks_of_answered {b : Time} (hb : f.firstBeat = some b) : waitTicks f status now = span f.forwardTime b := by
  cases status <;> first | exact absurd rfl hs | simp only [waitTicks, hb, Option.getD_some]

theorem streamTicks_of_read {b : Time} (hb : f.firstBeat = some b) (hk : f.kind = .read) :
    streamTicks f status now = some (span b now) := by
  cases status <;> first | exact absurd rfl hs | simp only [streamTicks, hk, hb, Option.getD_some]

theorem streamTicks_of_write (hk : f.kind = .write) : streamTicks f status now = none := by
  cases status <;> first | exact absurd rfl hs | simp only [streamTicks, hk]

end

/-! ### The histogram (R133) -/

/-- The edges ascend, so the first one above the wait is the only one with its lower neighbour not above it. -/
theorem binOf_eq_iff {s : State} (h : EdgesLegal s) (w : Nat) (i : Fin 8) : binOf s.edges w = i ↔
    (∀ j : Fin 7, j.val = i.val → w < s.edges[j]) ∧ ∀ j : Fin 7, j.val + 1 = i.val → s.edges[j] ≤ w := by
  unfold binOf
  split
  · next k hk =>
    obtain ⟨hw, hbelow⟩ := find?_finRange_eq_some.1 hk
    simp only [decide_eq_true_eq] at hw hbelow
    constructor
    · rintro rfl
      refine ⟨fun j hj => Fin.ext hj ▸ hw, fun j hj => not_lt.1 fun hlt => ?_⟩
      have hle : k.val ≤ j.val := hbelow j hlt
      rw [Fin.val_castSucc] at hj
      omega
    · rintro ⟨habove, hlower⟩
      rcases lt_trichotomy k.val i.val with hlt | heq | hgt
      · have hi := hlower ⟨i.val - 1, by omega⟩ (by simp; omega)
        have hmono : s.edges[k] ≤ s.edges[(⟨i.val - 1, by omega⟩ : Fin 7)] := by
          rcases Nat.lt_or_eq_of_le (Nat.le_sub_one_of_lt hlt) with hk | hk
          · exact (h.2 k _ hk).le
          · exact le_of_eq (congrArg (fun j : Fin 7 => s.edges[j]) (Fin.ext hk))
        omega
      · exact Fin.ext heq
      · exact absurd hgt (not_lt.2 (hbelow ⟨i.val, by omega⟩ (habove _ rfl)))
  · next hn =>
    rw [List.find?_eq_none] at hn
    have hall (j : Fin 7) : s.edges[j] ≤ w := by simpa using hn j (List.mem_finRange j)
    constructor
    · rintro rfl
      exact ⟨fun j hj => absurd hj j.isLt.ne, fun j _ => hall j⟩
    · rintro ⟨habove, -⟩
      by_contra hi
      have hlt : i.val < 7 := by omega
      exact absurd (habove ⟨i.val, hlt⟩ rfl) (not_lt.2 (hall _))

/-! ### The live record (R131, R132) -/

section
variable (edges : Vector Nat 7) (f : Flight) (now : Time) (st : Stats)

/-- The record with the completion counted and the hold sampled, which every notice does. -/
def countedHeld (status : RespStatus) : Stats := { countCompletion status st with holdMax := max (holdTicks f) st.holdMax }

variable {f}

theorem noticeStats_of_answered {status : RespStatus} (h : status ≠ .timeout) :
    noticeStats edges f status now st = sampleStream (streamTicks f status now)
      (sampleWait edges (waitTicks f status now) (countedHeld f st status)) := by
  cases status <;> first | exact absurd rfl h | rfl

end

theorem sampleStream_eq (x : Option Nat) (st : Stats) :
    sampleStream x st = { st with streamMax := (sampleStream x st).streamMax } := by
  cases x <;> rfl

/-- The three counts of the completions of answered requests and of TIMEOUTs (R131). -/
theorem countCompletion_eq {status : RespStatus} (h : status ≠ .refused) (st : Stats) : countCompletion status st = { st with
    completions := if status = .okay then bump st.completions 1 else st.completions
    timeouts := if status = .timeout then bump st.timeouts 1 else st.timeouts
    errorCompletions := if status = .dataError ∨ status = .decodeError
      then bump st.errorCompletions 1 else st.errorCompletions } := by
  cases status <;> first | exact absurd rfl h | rfl

/-- What a notice leaves, and what it counts and holds, whatever it samples besides. -/
theorem noticeStats_eq (edges : Vector Nat 7) (f : Flight) (now : Time) (st : Stats) (status : RespStatus) :
    noticeStats edges f status now st = { countedHeld f st status with
      waitMin := (noticeStats edges f status now st).waitMin
      waitMax := (noticeStats edges f status now st).waitMax
      waitSum := (noticeStats edges f status now st).waitSum
      bins := (noticeStats edges f status now st).bins
      streamMax := (noticeStats edges f status now st).streamMax } := by
  by_cases h : status = .timeout
  · subst h
    rfl
  · rw [noticeStats_of_answered edges now st h, sampleStream_eq]
    rfl

/-- A sampled wait adds one to the count of its bin alone (R133). -/
theorem sampleWait_bins (edges : Vector Nat 7) (w : Nat) (st : Stats) (i : Fin 8) :
    (sampleWait edges w st).bins[i] = if binOf edges w = i then bump st.bins[i] 1 else st.bins[i] := by
  simp only [sampleWait, Fin.getElem_fin, Vector.getElem_set, Fin.ext_iff]
  split
  · next h => simp only [h]
  · rfl

/-- What is sampled of an answered request (R132), a count or a hold does not change. -/
theorem countedHeld_samples (f : Flight) (st : Stats) (status : RespStatus) :
    (countedHeld f st status).waitMin = st.waitMin ∧ (countedHeld f st status).waitMax = st.waitMax ∧
      (countedHeld f st status).waitSum = st.waitSum ∧ (countedHeld f st status).bins = st.bins ∧
      (countedHeld f st status).streamMax = st.streamMax := by
  cases status <;> exact ⟨rfl, rfl, rfl, rfl, rfl⟩

section
variable {edges : Vector Nat 7} {f : Flight} {now b : Time} {st u : Stats} {status : RespStatus}
  (hu : u = noticeStats edges f status now st) (hs : status ≠ .timeout) (hb : f.firstBeat = some b)
include hu hs hb

/-- The wait of an answered request is sampled, and its stream besides. -/
theorem noticeStats_sampled : u = sampleStream (streamTicks f status now)
    (sampleWait edges (span f.forwardTime b) (countedHeld f st status)) := by
  rw [hu, noticeStats_of_answered edges now st hs, waitTicks_of_answered now hs hb]

theorem noticeStats_wait : u.waitMin = min (span f.forwardTime b) st.waitMin ∧
    u.waitMax = max (span f.forwardTime b) st.waitMax ∧
    u.waitSum = min (st.waitSum + span f.forwardTime b) 281474976710655 ∧
    ∀ i : Fin 8, u.bins[i] = if binOf edges (span f.forwardTime b) = i then bump st.bins[i] 1 else st.bins[i] := by
  obtain ⟨hmin, hmax, hsum, hbins, -⟩ := countedHeld_samples f st status
  have hsample := (noticeStats_sampled hu hs hb).trans (sampleStream_eq ..)
  rw [← hmin, ← hmax, ← hsum, ← hbins, congrArg Stats.bins hsample]
  exact ⟨congrArg Stats.waitMin hsample, congrArg Stats.waitMax hsample, congrArg Stats.waitSum hsample,
    sampleWait_bins edges (span f.forwardTime b) (countedHeld f st status)⟩

theorem noticeStats_stream : (f.kind = .read → u.streamMax = max (span b now) st.streamMax) ∧
    (f.kind = .write → u.streamMax = st.streamMax) := by
  obtain ⟨-, -, -, -, hstream⟩ := countedHeld_samples f st status
  rw [noticeStats_sampled hu hs hb, ← hstream]
  refine ⟨fun hk => ?_, fun hk => ?_⟩
  · rw [streamTicks_of_read now hs hb hk]
    rfl
  · rw [streamTicks_of_write now hs hk]
    rfl

end

/-- Settles O33: the record, the bin of a wait, and the bound of a count. -/
theorem noticeUpdatesRecord : Obligations.NoticeUpdatesRecord := by
  refine ⟨fun edges f now st status hs => ?_, fun s w i h => binOf_eq_iff h w i, bump_eq⟩
  obtain ⟨u, hu⟩ : ∃ u, u = noticeStats edges f status now st := ⟨_, rfl⟩
  have hshape := noticeStats_eq edges f now st status
  rw [← hu, countedHeld, countCompletion_eq hs] at hshape
  refine ⟨u, hu, ?_, congrArg Stats.completions hshape, congrArg Stats.timeouts hshape,
    congrArg Stats.errorCompletions hshape, fun ht => ?_, fun ht b hb => ?_⟩
  · rw [hshape]
    rfl
  · subst ht
    rw [hu]
    exact ⟨rfl, rfl, rfl, rfl, rfl⟩
  · obtain ⟨hmin, hmax, hsum, hbins⟩ := noticeStats_wait hu ht hb
    exact ⟨hmin, hmax, hsum, hbins, noticeStats_stream hu ht hb⟩

/-! ### The capture log (R139, R140) -/

theorem captures_iff {threshold : Nat} {f : Flight} {status : RespStatus} {now : Time} : captures threshold f status now = true ↔
    threshold ≠ 0 ∧ (status = .timeout ∨ threshold ≤ waitTicks f status now) := by
  simp only [captures, Bool.and_eq_true, Bool.or_eq_true, decide_eq_true_eq]

section
variable {c : ClassId} {f : Flight} {status : RespStatus} {s : State}

theorem completionNotice_of_no_capture (h : captures (s.cls c).active.captureThreshold f status s.timebase = false) :
    completionNotice c f status s = noticed c f status s := by
  rw [completionNotice, if_neg (by simp [h])]
  rfl

theorem completionNotice_of_capture (h : captures (s.cls c).active.captureThreshold f status s.timebase = true) :
    completionNotice c f status s = logCapture (captureOf c f status s.timebase) (noticed c f status s) := if_pos h

end

/-- Settles O34: whether a record is written, where it goes, and its intervals. -/
theorem captureLogged : Obligations.CaptureLogged := by
  refine ⟨fun c f status s u hu => ⟨fun h => ?_, fun ht h => ⟨fun hl => ?_, fun hl => ?_⟩⟩, span_eq,
    fun f now => ⟨waitTicks_timeout f now, streamTicks_timeout f now⟩, fun f status b now hs hb =>
    ⟨waitTicks_of_answered now hs hb, streamTicks_of_read now hs hb, streamTicks_of_write now hs⟩⟩ <;>
    replace hu : u = noticed c f status s := hu
  · rw [hu]
    refine completionNotice_of_no_capture (Bool.eq_false_iff.2 fun hc => ?_)
    obtain ⟨hne, hw⟩ := captures_iff.1 hc
    rcases h with h | ⟨hn, hlt⟩
    · exact hne h
    · exact hw.elim hn (not_le.2 hlt)
  · rw [completionNotice_of_capture (captures_iff.2 ⟨ht, h⟩), ← hu, logCapture,
      if_pos (show u.log.length < Config.logRecords by rw [hu]; exact hl), hu]
    rfl
  · rw [completionNotice_of_capture (captures_iff.2 ⟨ht, h⟩), ← hu, logCapture,
      if_neg (show ¬ u.log.length < Config.logRecords by rw [hu]; exact not_lt.2 hl), hu]
    rfl

end Sys2Proof.Machine
end
